-- ==== Sys2Proof/Word.lean ====
section
/-! DEFINITION. The word types of the SimPic16F84 core (spec/00_scope.md R5, R7). -/

namespace Sys2Proof

/-- `DATA_W`: W, a data-memory cell, an EEPROM cell, an 8-bit literal (R5). -/
abbrev Byte := BitVec 8

/-- `WORD_W`: an instruction word, unsigned in [0, 0x3FFF] (R5, R60). -/
abbrev InsnWord := BitVec 14

/-- `PC_W`: the program counter and a call-stack entry; counts words, not bytes (R5, R13). -/
abbrev ProgAddr := BitVec 13

/-- A 7-bit file-register address `f` (R5, R63). -/
abbrev FileAddr := BitVec 7

/-- An 8-bit physical data address `pa` = bank :: file address (R9, R15). -/
abbrev PhysAddr := BitVec 8

/-- A 3-bit bit index `b` (R63). -/
abbrev BitIndex := BitVec 3

/-- The 11-bit jump literal `k11` (R63). -/
abbrev JumpLit := BitVec 11

end Sys2Proof
end

