-- ==== Sys2Proof/Syntax.lean ====
section
/-! DEFINITION. The instructions (spec/30_encoding.md R61 to R63): one constructor per row of spec/opcode_table.json.
Every operand has exactly the width its field has, so no ill-formed instruction can be written. -/

namespace Sys2Proof

/-- The destination bit `d` (R82): 0 selects W, 1 the file register. -/
inductive Dest where
  /-- d = 0: the result goes to W. -/
  | w
  /-- d = 1: the result goes back to the file register. -/
  | f
  deriving DecidableEq, Repr

/-- The tagged instruction the decoder makes of a word (R63, R71). -/
inductive Instr where
  -- byte-oriented, family 00 (spec/41_byte_oriented.md)
  | addwf (f : FileAddr) (d : Dest)
  | andwf (f : FileAddr) (d : Dest)
  | clrf (f : FileAddr)
  | clrw
  | comf (f : FileAddr) (d : Dest)
  | decf (f : FileAddr) (d : Dest)
  | decfsz (f : FileAddr) (d : Dest)
  | incf (f : FileAddr) (d : Dest)
  | incfsz (f : FileAddr) (d : Dest)
  | iorwf (f : FileAddr) (d : Dest)
  | movf (f : FileAddr) (d : Dest)
  | movwf (f : FileAddr)
  | nop
  | rlf (f : FileAddr) (d : Dest)
  | rrf (f : FileAddr) (d : Dest)
  | subwf (f : FileAddr) (d : Dest)
  | swapf (f : FileAddr) (d : Dest)
  | xorwf (f : FileAddr) (d : Dest)
  -- bit-oriented, family 01 (spec/43_bit_oriented.md)
  | bcf (f : FileAddr) (b : BitIndex)
  | bsf (f : FileAddr) (b : BitIndex)
  | btfsc (f : FileAddr) (b : BitIndex)
  | btfss (f : FileAddr) (b : BitIndex)
  -- literal, jump and control (spec/45_literal.md, 44_jump.md, 42_control.md)
  | addlw (k : Byte)
  | andlw (k : Byte)
  | call (k : JumpLit)
  | clrwdt
  | goto (k : JumpLit)
  | iorlw (k : Byte)
  | movlw (k : Byte)
  | retfie
  | retlw (k : Byte)
  | ret
  | sleep
  | sublw (k : Byte)
  | xorlw (k : Byte)
  deriving DecidableEq, Repr

end Sys2Proof
end

