-- ==== Sys2Proof/Config.lean ====
section
/-! DEFINITION. The open parameters of the core (spec/00_scope.md R6): what an implementation fixes. They are plain data,
held in `State.cfg`, so that a statement about every state is a statement about every value of the parameters (log 3).
The values the spec names as defaults stand in Machine/ResetValues.lean. -/

namespace Sys2Proof

/-- `CARRY_POLARITY` (R6, R84, decision D1): what C means after ADDLW and ADDWF. -/
inductive CarryPolarity where
  /-- C = 1 when the sum does not exceed 255: the source's contract. -/
  | noCarryOut
  /-- C = 1 when the sum exceeds 255: the conventional rule. -/
  | carryOut
  deriving DecidableEq, Repr

/-- `SUB_FLAGS` (R6, R87, decision D3): a function from (minuend, subtrahend) to (C, DC). A function is no plain data, so the
parameter is a name: the conventional rule, or the n-th of the unknown functions `Config.subFlagsOther` (log 4). -/
inductive SubFlagRule where
  /-- C = no borrow, DC = no digit borrow. -/
  | conventional
  /-- Some other function, of which nothing is known. -/
  | other (n : Nat)
  deriving DecidableEq, Repr

/-- The open parameters that stay fixed while the machine runs (R6). -/
structure Config where
  /-- `CARRY_POLARITY` -/
  carry : CarryPolarity
  /-- `SUB_FLAGS` -/
  subRule : SubFlagRule
  /-- `PROG_SIZE`, 1 to 8192 -/
  progSize : Nat
  /-- `EEPROM_SIZE` -/
  eepromSize : Nat
  deriving DecidableEq, Repr

/-- The functions `SUB_FLAGS` may be other than the conventional one: no body, so nothing can be proved of a value
(log 4). Arguments: the function's number, minuend, subtrahend. Result: (C, DC). -/
opaque Config.subFlagsOther : Nat → Byte → Byte → Bool × Bool

end Sys2Proof
end

