-- ==== Sys2Proof/WellFormed.lean ====
section
/-! DEFINITION. What is well-formed. An `Instr` always is: its operands carry their widths (R63). What can be ill-formed is
what comes from outside: a raw number offered as an instruction word (R60, R69), a program image (R182) and the open
parameters (R6). -/

namespace Sys2Proof

/-- A raw number is an instruction word: "a word is an unsigned value in [0, 0x3FFF]" (R60). -/
def wordOk (n : Nat) : Bool := decide (n ≤ 0x3FFF)

/-- An image fits a program memory of `size` cells and holds only words (R182, decision D20). -/
def imageOk (size : Nat) (words : List Nat) : Bool :=
  decide (words.length ≤ size) && words.all wordOk

/-- The open parameters are in their range: `PROG_SIZE` is 1 to 8192 (R6). -/
def Config.wf (c : Config) : Bool := decide (1 ≤ c.progSize) && decide (c.progSize ≤ 8192)

end Sys2Proof
end

