-- ==== Sys2Proof/Decode.lean ====
section
/-! DEFINITION. The decoder (spec/30_encoding.md R60 to R71), then the encoder and the opcode table's rows, written from the
same tables. The bit patterns are those of R65 to R68 (log 7); ignored bits are accepted (R70, log 8). -/

namespace Sys2Proof

/-- What the decoder answers for a word that matches no row (R69): the word, by name. -/
inductive DecodeError where
  /-- "unrecognized instruction word" (R160). -/
  | unrecognizedWord (w : InsnWord)
  deriving DecidableEq, Repr

/-- `f = word[6:0]` (R63). -/
def fieldF (w : InsnWord) : FileAddr := w.extractLsb' 0 7

/-- `d = word[7]` (R63, R82). -/
def fieldD (w : InsnWord) : Dest := if w.getLsbD 7 then .f else .w

/-- `b = word[9:7]` (R63). -/
def fieldB (w : InsnWord) : BitIndex := w.extractLsb' 7 3

/-- `k8 = word[7:0]` (R63). -/
def fieldK8 (w : InsnWord) : Byte := w.extractLsb' 0 8

/-- `k11 = word[10:0]` (R63). -/
def fieldK11 (w : InsnWord) : JumpLit := w.extractLsb' 0 11

/-- The masked dispatch of family 00 on `word[11:8]`, and on `word[7]` where R65 says so (R64 step 3). -/
def decodeMasked00 (w : InsnWord) : Except DecodeError Instr :=
  match (w.extractLsb' 8 4).toNat with
  | 0 => if w.getLsbD 7 then .ok (.movwf (fieldF w)) else .error (.unrecognizedWord w)
  | 1 => if w.getLsbD 7 then .ok (.clrf (fieldF w)) else .ok .clrw
  | 2 => .ok (.subwf (fieldF w) (fieldD w))
  | 3 => .ok (.decf (fieldF w) (fieldD w))
  | 4 => .ok (.iorwf (fieldF w) (fieldD w))
  | 5 => .ok (.andwf (fieldF w) (fieldD w))
  | 6 => .ok (.xorwf (fieldF w) (fieldD w))
  | 7 => .ok (.addwf (fieldF w) (fieldD w))
  | 8 => .ok (.movf (fieldF w) (fieldD w))
  | 9 => .ok (.comf (fieldF w) (fieldD w))
  | 10 => .ok (.incf (fieldF w) (fieldD w))
  | 11 => .ok (.decfsz (fieldF w) (fieldD w))
  | 12 => .ok (.rrf (fieldF w) (fieldD w))
  | 13 => .ok (.rlf (fieldF w) (fieldD w))
  | 14 => .ok (.swapf (fieldF w) (fieldD w))
  | _ => .ok (.incfsz (fieldF w) (fieldD w))

/-- Family 00: the four exact words, the NOP pattern, then the masked dispatch (R64). -/
def decodeFamily00 (w : InsnWord) : Except DecodeError Instr :=
  if w = 0x0064#14 then .ok .clrwdt
  else if w = 0x0009#14 then .ok .retfie
  else if w = 0x0008#14 then .ok .ret
  else if w = 0x0063#14 then .ok .sleep
  else if w &&& 0x3F9F#14 = 0x0000#14 then .ok .nop
  else decodeMasked00 w

/-- Family 01 by `word[11:10]`; every word is legal (R66). -/
def decodeFamily01 (w : InsnWord) : Except DecodeError Instr :=
  match (w.extractLsb' 10 2).toNat with
  | 0 => .ok (.bcf (fieldF w) (fieldB w))
  | 1 => .ok (.bsf (fieldF w) (fieldB w))
  | 2 => .ok (.btfsc (fieldF w) (fieldB w))
  | _ => .ok (.btfss (fieldF w) (fieldB w))

/-- Family 10 by `word[11]`; every word is legal (R67). -/
def decodeFamily10 (w : InsnWord) : Except DecodeError Instr :=
  if w.getLsbD 11 then .ok (.goto (fieldK11 w)) else .ok (.call (fieldK11 w))

/-- Family 11 by `word[11:8]`; 0b1011 is unassigned (R68, R69). -/
def decodeFamily11 (w : InsnWord) : Except DecodeError Instr :=
  match (w.extractLsb' 8 4).toNat with
  | 0 | 1 | 2 | 3 => .ok (.movlw (fieldK8 w))
  | 4 | 5 | 6 | 7 => .ok (.retlw (fieldK8 w))
  | 8 => .ok (.iorlw (fieldK8 w))
  | 9 => .ok (.andlw (fieldK8 w))
  | 10 => .ok (.xorlw (fieldK8 w))
  | 11 => .error (.unrecognizedWord w)
  | 12 | 13 => .ok (.sublw (fieldK8 w))
  | _ => .ok (.addlw (fieldK8 w))

/-- The decoder, on every 14-bit word (R64, R71): a pure function of the word. -/
def decode (w : InsnWord) : Except DecodeError Instr :=
  match (w.extractLsb' 12 2).toNat with
  | 0 => decodeFamily00 w
  | 1 => decodeFamily01 w
  | 2 => decodeFamily10 w
  | _ => decodeFamily11 w

/-- The instruction the decoder reads from the bits `w` of one table row. An instruction is one 14-bit word (R60); program
memory holds whole words, so no byte order arises (R45); a number above 0x3FFF is no word and is refused (R69). The row's
bit count does not matter: the bits it leaves out are 0. -/
def decodeTableWord (_nbits w : Nat) : Option Instr :=
  if wordOk w then
    match decode (BitVec.ofNat 14 w) with
    | .ok i => some i
    | .error _ => none
  else none

/-- The destination bit of R82. -/
def Dest.bit : Dest → BitVec 1
  | .w => 0#1
  | .f => 1#1

/-- The canonical word of an instruction: the pattern of R65 to R68 with every ignored bit 0 (R70). -/
def encode : Instr → InsnWord
  | .addwf f d => 0b000111#6 ++ d.bit ++ f
  | .andwf f d => 0b000101#6 ++ d.bit ++ f
  | .clrf f => 0b0000011#7 ++ f
  | .clrw => 0b00000100000000#14
  | .comf f d => 0b001001#6 ++ d.bit ++ f
  | .decf f d => 0b000011#6 ++ d.bit ++ f
  | .decfsz f d => 0b001011#6 ++ d.bit ++ f
  | .incf f d => 0b001010#6 ++ d.bit ++ f
  | .incfsz f d => 0b001111#6 ++ d.bit ++ f
  | .iorwf f d => 0b000100#6 ++ d.bit ++ f
  | .movf f d => 0b001000#6 ++ d.bit ++ f
  | .movwf f => 0b0000001#7 ++ f
  | .nop => 0b00000000000000#14
  | .rlf f d => 0b001101#6 ++ d.bit ++ f
  | .rrf f d => 0b001100#6 ++ d.bit ++ f
  | .subwf f d => 0b000010#6 ++ d.bit ++ f
  | .swapf f d => 0b001110#6 ++ d.bit ++ f
  | .xorwf f d => 0b000110#6 ++ d.bit ++ f
  | .bcf f b => 0b0100#4 ++ b ++ f
  | .bsf f b => 0b0101#4 ++ b ++ f
  | .btfsc f b => 0b0110#4 ++ b ++ f
  | .btfss f b => 0b0111#4 ++ b ++ f
  | .addlw k => 0b111110#6 ++ k
  | .andlw k => 0b111001#6 ++ k
  | .call k => 0b100#3 ++ k
  | .clrwdt => 0b00000001100100#14
  | .goto k => 0b101#3 ++ k
  | .iorlw k => 0b111000#6 ++ k
  | .movlw k => 0b110000#6 ++ k
  | .retfie => 0b00000000001001#14
  | .retlw k => 0b110100#6 ++ k
  | .ret => 0b00000000001000#14
  | .sleep => 0b00000001100011#14
  | .sublw k => 0b111100#6 ++ k
  | .xorlw k => 0b111010#6 ++ k

/-- A row of the opcode map (R65 to R68): a word `w` is the row's instruction exactly when `w &&& mask = bits`.
`ignored` are the row's `x` bits (R70). -/
structure OpcodeRow where
  mnemonic : String
  bits : InsnWord
  mask : InsnWord
  ignored : InsnWord
  deriving DecidableEq, Repr

/-- The row of R65 to R68 an instruction stands in. -/
def opcodeRow : Instr → OpcodeRow
  | .addwf _ _ => ⟨"ADDWF", 0x0700, 0x3F00, 0⟩
  | .andwf _ _ => ⟨"ANDWF", 0x0500, 0x3F00, 0⟩
  | .clrf _ => ⟨"CLRF", 0x0180, 0x3F80, 0⟩
  | .clrw => ⟨"CLRW", 0x0100, 0x3F80, 0x007F⟩
  | .comf _ _ => ⟨"COMF", 0x0900, 0x3F00, 0⟩
  | .decf _ _ => ⟨"DECF", 0x0300, 0x3F00, 0⟩
  | .decfsz _ _ => ⟨"DECFSZ", 0x0B00, 0x3F00, 0⟩
  | .incf _ _ => ⟨"INCF", 0x0A00, 0x3F00, 0⟩
  | .incfsz _ _ => ⟨"INCFSZ", 0x0F00, 0x3F00, 0⟩
  | .iorwf _ _ => ⟨"IORWF", 0x0400, 0x3F00, 0⟩
  | .movf _ _ => ⟨"MOVF", 0x0800, 0x3F00, 0⟩
  | .movwf _ => ⟨"MOVWF", 0x0080, 0x3F80, 0⟩
  | .nop => ⟨"NOP", 0x0000, 0x3F9F, 0x0060⟩
  | .rlf _ _ => ⟨"RLF", 0x0D00, 0x3F00, 0⟩
  | .rrf _ _ => ⟨"RRF", 0x0C00, 0x3F00, 0⟩
  | .subwf _ _ => ⟨"SUBWF", 0x0200, 0x3F00, 0⟩
  | .swapf _ _ => ⟨"SWAPF", 0x0E00, 0x3F00, 0⟩
  | .xorwf _ _ => ⟨"XORWF", 0x0600, 0x3F00, 0⟩
  | .bcf _ _ => ⟨"BCF", 0x1000, 0x3C00, 0⟩
  | .bsf _ _ => ⟨"BSF", 0x1400, 0x3C00, 0⟩
  | .btfsc _ _ => ⟨"BTFSC", 0x1800, 0x3C00, 0⟩
  | .btfss _ _ => ⟨"BTFSS", 0x1C00, 0x3C00, 0⟩
  | .addlw _ => ⟨"ADDLW", 0x3E00, 0x3E00, 0x0100⟩
  | .andlw _ => ⟨"ANDLW", 0x3900, 0x3F00, 0⟩
  | .call _ => ⟨"CALL", 0x2000, 0x3800, 0⟩
  | .clrwdt => ⟨"CLRWDT", 0x0064, 0x3FFF, 0⟩
  | .goto _ => ⟨"GOTO", 0x2800, 0x3800, 0⟩
  | .iorlw _ => ⟨"IORLW", 0x3800, 0x3F00, 0⟩
  | .movlw _ => ⟨"MOVLW", 0x3000, 0x3C00, 0x0300⟩
  | .retfie => ⟨"RETFIE", 0x0009, 0x3FFF, 0⟩
  | .retlw _ => ⟨"RETLW", 0x3400, 0x3C00, 0x0300⟩
  | .ret => ⟨"RETURN", 0x0008, 0x3FFF, 0⟩
  | .sleep => ⟨"SLEEP", 0x0063, 0x3FFF, 0⟩
  | .sublw _ => ⟨"SUBLW", 0x3C00, 0x3E00, 0x0100⟩
  | .xorlw _ => ⟨"XORLW", 0x3A00, 0x3F00, 0⟩

end Sys2Proof
end

