-- ==== Sys2Proof/Machine/ResetValues.lean ====
section
/-! DEFINITION. The values the machine holds after reset (spec/10_state.md R16, R35) and the defaults of the open parameters
(spec/00_scope.md R6). -/

namespace Sys2Proof.Machine

/-- The defaults the spec names for the open parameters (R6; DESIGN CHOICE, log 3). -/
def defaultConfig : Config :=
  { carry := .noCarryOut, subRule := .conventional, progSize := 1024, eepromSize := 64 }

/-- `W` after reset (R35). -/
def resetW : Byte := 0x00#8

/-- `IR` after reset (R35, decision D18). -/
def resetIr : InsnWord := 0x0000#14

/-- `PC` after reset (R35). -/
def resetPc : ProgAddr := 0x0000#13

/-- What the general purpose registers hold at `State.reset`: the spec leaves `GPR_POWER_ON` open (R19, D19); DESIGN CHOICE,
unsafe, log 5. -/
def resetGpr : Byte := 0x00#8

/-- What a data-memory cell that is not listed reads as, by physical address: its reset value in the table of R16, and
`resetGpr` for a general purpose register. -/
def ramUnlisted (pa : Nat) : Byte :=
  if pa = 0x03 ∨ pa = 0x83 then 0x1C#8       -- STATUS, both banks
  else if pa = 0x81 then 0xFF#8              -- OPTION
  else if pa = 0x85 then 0x1F#8              -- TRISA
  else if pa = 0x86 then 0xFF#8              -- TRISB
  else if pa % 0x80 ≤ 0x0B then 0x00#8       -- "all other SFRs=0"
  else resetGpr

/-- What an EEPROM cell that is not listed reads as: the spec leaves `EEPROM_POWER_ON` open (R31, D19); DESIGN CHOICE, unsafe,
log 6. -/
def eepromUnlisted (_a : Nat) : Byte := 0x00#8

end Sys2Proof.Machine
end

