-- ==== Sys2Proof/Machine/State.lean ====
section
/-! DEFINITION. The state of the core (spec/10_state.md R10 to R35) as plain data, the reasons a step may stop, and the state
after reset. -/

namespace Sys2Proof.Machine

/-- The address spaces an observer may name (R40, R162). -/
inductive Space where
  /-- data memory, in the bank named -/
  | data (bank : Nat)
  /-- program memory -/
  | program
  /-- the EEPROM array -/
  | eeprom
  deriving DecidableEq, Repr

/-- Why the machine stops with a fault. No step of this machine faults: R162 shows that no step can name a cell outside an
array, and every error a step can raise has its effect given by R166 and is taken (log 1). -/
inductive Fault where
  /-- `AddressOutOfBounds` (R160, R162): raised by the observers of Machine/HostOps.lean only, for a cell outside its array.
  Safe: the failing access changes nothing. -/
  | addressOutOfBounds (space : Space) (index : Nat)
  deriving DecidableEq, Repr

/-- Why the machine has no meaning for an instruction. -/
inductive Refusal where
  /-- An instruction with no meaning yet, raised by `exec`'s arm for it. Safe. No arm of this model answers it. -/
  | notModelled (mnemonic : String)
  deriving DecidableEq, Repr

/-- The error outcomes a step can report to the host (R160). Not state: nothing records them (R160, R166). -/
inductive StepError where
  /-- The fetched word matches no row (R161). -/
  | decodeError (word : InsnWord)
  /-- CALL on a full stack (R163). -/
  | stackOverflow
  /-- RETURN, RETFIE or RETLW on an empty stack (R164). -/
  | stackUnderflow
  /-- A step before the first reset (R165). -/
  | notReady
  deriving DecidableEq, Repr

/-- What a step answers its caller (R80 step 5, R183). -/
inductive StepReport where
  /-- Normal completion, with the address of the next instruction. -/
  | ok (next : ProgAddr)
  /-- An error outcome. -/
  | error (e : StepError)
  deriving DecidableEq, Repr

/-- Why a load fails (R169, R182). -/
inductive LoadError where
  /-- More words than `PROG_SIZE`. -/
  | oversized
  /-- A word outside [0, 0x3FFF]. -/
  | notAWord
  deriving DecidableEq, Repr

/-- Sparse bytes by address, in one canonical form (Machine/Ops.lean, `Memory.wf`). -/
abbrev Memory := List Host.Cell

/-- Program memory: the cells that hold a word, by word address, rising. A cell not listed is *unset* (R32). -/
abbrev ProgMemory := List (Nat × InsnWord)

/-- The whole state of the core (R10), and the fixed parameters of R6 (`cfg`, the model's own field, log 3). -/
structure State where
  /-- The open parameters: fixed, no step writes them (R6, log 3). -/
  cfg : Config
  /-- The working register (R11). -/
  w : Byte
  /-- The instruction register: the last fetched word (R12). -/
  ir : InsnWord
  /-- The program counter (R13, R14). -/
  pc : ProgAddr
  /-- Data memory, by physical address 0x00 to 0xFF, both banks stored (R15). -/
  ram : Memory
  /-- The call stack, newest entry first, at most 8 entries (R29). -/
  stack : List ProgAddr
  /-- The EEPROM array (R31). -/
  eeprom : Memory
  /-- Program memory (R32). -/
  prog : ProgMemory
  /-- The engine is ready: a reset has happened (R33). -/
  ready : Bool
  deriving DecidableEq, Repr

/-- The machine after power-on followed by the first reset (R35, R180, R181): program memory unset, the default parameters
(log 3), GPRs and EEPROM as log 5 and log 6 choose. -/
def State.reset : State :=
  { cfg := defaultConfig, w := resetW, ir := resetIr, pc := resetPc, ram := [], stack := [], eeprom := [], prog := [],
    ready := true }

end Sys2Proof.Machine
end

