-- ==== Sys2Proof/Machine/Ops.lean ====
section
/-! DEFINITION. The named operations over registers, memory, call stack and program counter (spec/10_state.md,
spec/20_memory.md), and taking an error (spec/60_exceptions.md R166). -/

namespace Sys2Proof.Machine

/-! ### Sparse cells -/

/-- The entry listed at an address. -/
def cellFind {n : Nat} : List (Nat × BitVec n) → Nat → Option (BitVec n)
  | [], _ => none
  | (b, x) :: rest, a => if a = b then some x else cellFind rest a

/-- The cells without any entry at an address. -/
def cellErase {n : Nat} : List (Nat × BitVec n) → Nat → List (Nat × BitVec n)
  | [], _ => []
  | (b, x) :: rest, a => if a = b then cellErase rest a else (b, x) :: cellErase rest a

/-- The cells with one more entry, before the first higher address. -/
def cellInsert {n : Nat} : List (Nat × BitVec n) → Nat → BitVec n → List (Nat × BitVec n)
  | [], a, v => [(a, v)]
  | (b, x) :: rest, a, v => if a < b then (a, v) :: (b, x) :: rest else (b, x) :: cellInsert rest a v

/-- One byte: the listed entry, or what an unlisted address reads as. -/
def Memory.read (unlisted : Nat → Byte) (m : Memory) (a : Nat) : Byte :=
  (cellFind m a).getD (unlisted a)

/-- Store one byte, keeping the canonical form: the value an unlisted address reads as is not listed. -/
def Memory.write (unlisted : Nat → Byte) (m : Memory) (a : Nat) (v : Byte) : Memory :=
  if v = unlisted a then cellErase m a else cellInsert (cellErase m a) a v

/-- The canonical form: addresses strictly rising and below `bound`, no entry equal to what an unlisted address reads as. -/
abbrev Memory.wf (unlisted : Nat → Byte) (bound : Nat) (m : Memory) : Prop :=
  m.Pairwise (fun x y => x.1 < y.1) ∧ ∀ c ∈ m, c.1 < bound ∧ c.2 ≠ unlisted c.1

/-- The canonical form of program memory: addresses strictly rising and below `PROG_SIZE` (R32). -/
abbrev ProgMemory.wf (size : Nat) (p : ProgMemory) : Prop :=
  p.Pairwise (fun x y => x.1 < y.1) ∧ ∀ c ∈ p, c.1 < size

/-! ### Data memory -/

/-- `pa` = bank :: a (R15). -/
def physAddr (bank : Bool) (a : FileAddr) : PhysAddr := BitVec.ofBool bank ++ a

/-- `pa[6:0]`. -/
def fileOf (pa : PhysAddr) : FileAddr := pa.extractLsb' 0 7

/-- The mapped SFR addresses 0x00, 0x02, 0x03, 0x04, 0x0A, 0x0B (R17, R43). -/
def isMapped (a : FileAddr) : Bool :=
  a == 0x00#7 || a == 0x02#7 || a == 0x03#7 || a == 0x04#7 || a == 0x0A#7 || a == 0x0B#7

/-- The general purpose registers 0x0C to 0x7F (R19). -/
def isGpr (a : FileAddr) : Bool := decide (0x0C#7 ≤ a)

/-- `MemWrite`'s routing on the stored cells: both banks for a mapped or mirrored address, one bank else (R43). -/
def ramWrite (m : Memory) (pa : PhysAddr) (v : Byte) : Memory :=
  let a := fileOf pa
  if isMapped a || isGpr a then
    Memory.write ramUnlisted (Memory.write ramUnlisted m (physAddr false a).toNat v) (physAddr true a).toNat v
  else Memory.write ramUnlisted m pa.toNat v

/-- `MemRead(pa, 1)` (R42): no side effect. -/
def State.memRead (s : State) (pa : PhysAddr) : Byte := Memory.read ramUnlisted s.ram pa.toNat

/-- `MemWrite(pa, 1, v)` (R43). -/
def State.memWrite (s : State) (pa : PhysAddr) (v : Byte) : State := { s with ram := ramWrite s.ram pa v }

/-- `SFR.STATUS` (R8, R21): a mapped register, read at its bank-0 address. -/
def State.status (s : State) : Byte := s.memRead 0x03#8

/-- `SFR.FSR` (R8, R24). -/
def State.fsr (s : State) : Byte := s.memRead 0x04#8

/-- `SFR.PCLATH` (R8, R25). -/
def State.pclath (s : State) : Byte := s.memRead 0x0A#8

/-! ### Registers -/

/-- `W <- v` (R8, R11). -/
def State.setW (s : State) (v : Byte) : State := { s with w := v }

/-- `PC <- v` (R8). -/
def State.setPc (s : State) (v : ProgAddr) : State := { s with pc := v }

/-- `IR <- v` (R8, R12). -/
def State.setIr (s : State) (v : InsnWord) : State := { s with ir := v }

/-- The call stack replaced. -/
def State.setStack (s : State) (st : List ProgAddr) : State := { s with stack := st }

/-- `PC <- (PC + 1) mod 8192`: the advance of a step (R14, R80) and a skip's extra word (R88). -/
def State.incPc (s : State) : State := s.setPc (s.pc + 1#13)

/-! ### Call stack -/

/-- `STACK_DEPTH` (R5). -/
def stackDepth : Nat := 8

/-- `Push(a)` on the entries, newest first (R30): fails on a full stack, and on one of more than 8 entries, which no run
reaches (log 17). -/
def push (st : List ProgAddr) (a : ProgAddr) : Except StepError (List ProgAddr) :=
  if st.length < stackDepth then .ok (a :: st) else .error .stackOverflow

/-- `Pop()` (R30): the newest entry and the rest; fails on an empty stack. -/
def pop (st : List ProgAddr) : Except StepError (ProgAddr × List ProgAddr) :=
  match st with
  | [] => .error .stackUnderflow
  | a :: rest => .ok (a, rest)

/-- `Top()` (R30): observation only (decision D35). -/
def top (st : List ProgAddr) : Except StepError ProgAddr :=
  match st with
  | [] => .error .stackUnderflow
  | a :: _ => .ok a

/-! ### Taking an error -/

/-- Taking an error (R166), the machine's one exception entry: every write made so far stays (in `s`: the fetch into IR and
the advance of PC), nothing is saved, no flag or mode changes, control goes on at PC; the next step runs "exactly as though
a NOP had executed". The outcome is reported by `stepReport`, not recorded in the state (R160, R166; log 1). There is no
return from an error (R167). -/
def raise (_e : StepError) (s : State) : Host.Outcome State Fault Refusal := .next s

/-! ### Fetch -/

/-- `ProgRead(a)` (R48): word 0 when the address is out of range or the cell is unset. -/
def State.progRead (s : State) (a : ProgAddr) : InsnWord :=
  if a.toNat < s.cfg.progSize then (cellFind s.prog a.toNat).getD 0x0000#14 else 0x0000#14

/-- Steps 1 and 2 of R80: `IR <- ProgRead(PC)`, then the advance of PC. -/
def State.fetch (s : State) : State := (s.setIr (s.progRead s.pc)).incPc

/-- A word set in a cell of program memory. -/
def progPlace (p : ProgMemory) (a : Nat) (w : InsnWord) : ProgMemory := cellInsert (cellErase p a) a w

/-- What `State.withFetchWord` does (log 9): the word stands in the cell PC names, the program memory reaches that cell and
the engine is ready. A number above 0x3FFF is no word and cannot stand in program memory (R69): then nothing changes. -/
def placeFetchWord (s : State) (w : Nat) : State :=
  if wordOk w then
    { s with
      prog := progPlace s.prog s.pc.toNat (BitVec.ofNat 14 w)
      cfg := { s.cfg with progSize := max s.cfg.progSize (s.pc.toNat + 1) }
      ready := true }
  else s

end Sys2Proof.Machine
end

