-- ==== Sys2Proof/Machine/Flags.lean ====
section
/-! DEFINITION. The flag functions and the flag write (spec/40_execution_and_alu.md R83 to R87). -/

namespace Sys2Proof.Machine

/-- `ZOf(r)` (R83). -/
def zOf (r : Byte) : Bool := r == 0#8

/-- `CarryOf(ovf)` (R84): the polarity is the open parameter `CARRY_POLARITY`. -/
def carryOf (p : CarryPolarity) (ovf : Bool) : Bool :=
  match p with
  | .noCarryOut => !ovf
  | .carryOut => ovf

/-- C of the addition a + b (R84): `CarryOf(sum > 255)`. -/
def cOfAdd (p : CarryPolarity) (a b : Byte) : Bool := carryOf p (decide (a.toNat + b.toNat > 255))

/-- `DCOfAdd(a, b)` (R85): the sum of the low nibbles exceeds 0xF. -/
def dcOfAdd (a b : Byte) : Bool := decide ((a &&& 0x0F#8).toNat + (b &&& 0x0F#8).toNat > 0xF)

/-- `SubFlags(m, s)` (R87): (C, DC) of m - s, by the open parameter `SUB_FLAGS`. -/
def subFlags (rule : SubFlagRule) (m s : Byte) : Bool × Bool :=
  match rule with
  | .conventional => (decide (m ≥ s), decide (m &&& 0x0F#8 ≥ s &&& 0x0F#8))
  | .other n => Config.subFlagsOther n m s

/-- `(v & ~(1 << i)) | (b << i)` (R86). -/
def putBit (v : Byte) (i : Nat) (b : Bool) : Byte :=
  (v &&& ~~~(1#8 <<< i)) ||| (if b then 1#8 <<< i else 0#8)

/-- A flag update that may leave the bit as it is. -/
def putFlag (v : Byte) (i : Nat) : Option Bool → Byte
  | none => v
  | some b => putBit v i b

/-- The STATUS value after an update of Z (bit 2), C (bit 0) and DC (bit 1), each where given (R21, R86). -/
def applyFlags (z c dc : Option Bool) (v : Byte) : Byte := putFlag (putFlag (putFlag v 2 z) 0 c) 1 dc

/-- The flag write of R86: one read-modify-write of STATUS, reaching both banks. Used by instructions that write a flag. -/
def State.setFlags (s : State) (z c dc : Option Bool) : State :=
  s.memWrite 0x03#8 (applyFlags z c dc s.status)

/-- `STATUS.C` (R21), as RLF and RRF read it. -/
def State.carry (s : State) : Bool := s.status.getLsbD 0

end Sys2Proof.Machine
end

