-- ==== Sys2Proof/Machine/Operands.lean ====
section
/-! DEFINITION. The operand forms: the effective address (spec/20_memory.md R41), the destination
(spec/40_execution_and_alu.md R82), and the shared shapes of the instructions in the order of R81. -/

namespace Sys2Proof.Machine

/-- `EA(f)` (R41): operand 0 is indirect (bank IRP, address FSR[6:0]), any other direct (bank RP0). -/
def ea (f : FileAddr) (s : State) : PhysAddr :=
  if f = 0#7 then physAddr (s.status.getLsbD 7) (fileOf s.fsr)
  else physAddr (s.status.getLsbD 5) f

/-- The operand of an instruction with a file-register operand: `MemRead(EA(f), 1)` (R81 a, b). -/
def operand (f : FileAddr) (s : State) : Byte := s.memRead (ea f s)

/-- `Dest(d, pa, r)` (R82). -/
def State.writeDest (s : State) (d : Dest) (pa : PhysAddr) (r : Byte) : State :=
  match d with
  | .w => s.setW r
  | .f => s.memWrite pa r

/-- A byte-oriented instruction that writes its result and no flag. The address is resolved before the write (R81). -/
def byteOp (f : FileAddr) (d : Dest) (r : Byte) (s : State) : State := s.writeDest d (ea f s) r

/-- A byte-oriented instruction that writes its result and then flags, in the order of R81: the computed flags win. -/
def byteOpFlags (f : FileAddr) (d : Dest) (r : Byte) (z c dc : Option Bool) (s : State) : State :=
  (byteOp f d r s).setFlags z c dc

/-- A literal instruction that writes W and then flags (R81). -/
def litOpFlags (r : Byte) (z c dc : Option Bool) (s : State) : State := (s.setW r).setFlags z c dc

/-- `skip` where a condition holds (R88). -/
def State.skipIf (s : State) (cond : Bool) : State := if cond then s.incPc else s

/-- `Target(k11)` (R140): bits 12:11 from PCLATH[4:3], bits 10:0 from the literal. -/
def target (k : JumpLit) (s : State) : ProgAddr := s.pclath.extractLsb' 3 2 ++ k

end Sys2Proof.Machine
end

