-- ==== Sys2Proof/Machine/BitOriented.lean ====
section
/-! DEFINITION. The bit-oriented instructions (spec/43_bit_oriented.md R130 to R133). -/

namespace Sys2Proof.Machine

/-- `1 << b` (R130, R131). -/
def bitMask (b : BitIndex) : Byte := 1#8 <<< b.toNat

/-- BCF (R130): the whole byte is written back, no flag effect. -/
def execBcf (f : FileAddr) (b : BitIndex) (s : State) : Host.Outcome State Fault Refusal :=
  .next (byteOp f .f (operand f s &&& ~~~(bitMask b)) s)

/-- BSF (R131). -/
def execBsf (f : FileAddr) (b : BitIndex) (s : State) : Host.Outcome State Fault Refusal :=
  .next (byteOp f .f (operand f s ||| bitMask b) s)

/-- BTFSC (R132): skip if the bit is clear. -/
def execBtfsc (f : FileAddr) (b : BitIndex) (s : State) : Host.Outcome State Fault Refusal :=
  .next (s.skipIf (!(operand f s).getLsbD b.toNat))

/-- BTFSS (R133): skip if the bit is set. -/
def execBtfss (f : FileAddr) (b : BitIndex) (s : State) : Host.Outcome State Fault Refusal :=
  .next (s.skipIf ((operand f s).getLsbD b.toNat))

end Sys2Proof.Machine
end

