-- ==== Sys2Proof/Machine/ByteOriented.lean ====
section
/-! DEFINITION. The byte-oriented instructions (spec/41_byte_oriented.md R100 to R116). The state given is the one after the
fetch and the advance of PC (R80). -/

namespace Sys2Proof.Machine

/-- ADDWF (R100). -/
def execAddwf (f : FileAddr) (d : Dest) (s : State) : Host.Outcome State Fault Refusal :=
  let v := operand f s
  let r := s.w + v
  .next (byteOpFlags f d r (some (zOf r)) (some (cOfAdd s.cfg.carry s.w v)) (some (dcOfAdd s.w v)) s)

/-- ANDWF (R101). -/
def execAndwf (f : FileAddr) (d : Dest) (s : State) : Host.Outcome State Fault Refusal :=
  let r := s.w &&& operand f s
  .next (byteOpFlags f d r (some (zOf r)) none none s)

/-- CLRF (R102): the register is not read; Z is set. -/
def execClrf (f : FileAddr) (s : State) : Host.Outcome State Fault Refusal :=
  .next (byteOpFlags f .f 0x00#8 (some true) none none s)

/-- CLRW (R103): no effective address; Z is set. -/
def execClrw (s : State) : Host.Outcome State Fault Refusal :=
  .next (litOpFlags 0x00#8 (some true) none none s)

/-- COMF (R104). -/
def execComf (f : FileAddr) (d : Dest) (s : State) : Host.Outcome State Fault Refusal :=
  let r := operand f s ^^^ 0xFF#8
  .next (byteOpFlags f d r (some (zOf r)) none none s)

/-- DECF (R105). -/
def execDecf (f : FileAddr) (d : Dest) (s : State) : Host.Outcome State Fault Refusal :=
  let r := operand f s - 1#8
  .next (byteOpFlags f d r (some (zOf r)) none none s)

/-- DECFSZ (R106): as DECF, Z included (decision D14), then a skip when the result is zero. -/
def execDecfsz (f : FileAddr) (d : Dest) (s : State) : Host.Outcome State Fault Refusal :=
  let r := operand f s - 1#8
  .next ((byteOpFlags f d r (some (zOf r)) none none s).skipIf (r == 0#8))

/-- INCF (R107). -/
def execIncf (f : FileAddr) (d : Dest) (s : State) : Host.Outcome State Fault Refusal :=
  let r := operand f s + 1#8
  .next (byteOpFlags f d r (some (zOf r)) none none s)

/-- INCFSZ (R108): as INCF, Z included (decision D14), then a skip when the result is zero. -/
def execIncfsz (f : FileAddr) (d : Dest) (s : State) : Host.Outcome State Fault Refusal :=
  let r := operand f s + 1#8
  .next ((byteOpFlags f d r (some (zOf r)) none none s).skipIf (r == 0#8))

/-- IORWF (R109). -/
def execIorwf (f : FileAddr) (d : Dest) (s : State) : Host.Outcome State Fault Refusal :=
  let r := s.w ||| operand f s
  .next (byteOpFlags f d r (some (zOf r)) none none s)

/-- MOVF (R110): no flag (decision D13). -/
def execMovf (f : FileAddr) (d : Dest) (s : State) : Host.Outcome State Fault Refusal :=
  .next (byteOp f d (operand f s) s)

/-- MOVWF (R111): no flag. -/
def execMovwf (f : FileAddr) (s : State) : Host.Outcome State Fault Refusal :=
  .next (byteOp f .f s.w s)

/-- RLF (R112): `((v << 1) & 0xFF) | c`; C receives `v[7]`. -/
def execRlf (f : FileAddr) (d : Dest) (s : State) : Host.Outcome State Fault Refusal :=
  let v := operand f s
  let r := (v <<< 1) ||| (if s.carry then 0x01#8 else 0x00#8)
  .next (byteOpFlags f d r none (some (v.getLsbD 7)) none s)

/-- RRF (R113): `(c << 7) | (v >> 1)`; C receives `v[0]`. -/
def execRrf (f : FileAddr) (d : Dest) (s : State) : Host.Outcome State Fault Refusal :=
  let v := operand f s
  let r := (if s.carry then 0x80#8 else 0x00#8) ||| (v >>> 1)
  .next (byteOpFlags f d r none (some (v.getLsbD 0)) none s)

/-- SUBWF (R114): file register minus W. -/
def execSubwf (f : FileAddr) (d : Dest) (s : State) : Host.Outcome State Fault Refusal :=
  let v := operand f s
  let r := v - s.w
  let fl := subFlags s.cfg.subRule v s.w
  .next (byteOpFlags f d r (some (zOf r)) (some fl.1) (some fl.2) s)

/-- SWAPF (R115): the nibbles exchanged, no flag. -/
def execSwapf (f : FileAddr) (d : Dest) (s : State) : Host.Outcome State Fault Refusal :=
  let v := operand f s
  .next (byteOp f d ((v <<< 4) ||| (v >>> 4)) s)

/-- XORWF (R116). -/
def execXorwf (f : FileAddr) (d : Dest) (s : State) : Host.Outcome State Fault Refusal :=
  let r := s.w ^^^ operand f s
  .next (byteOpFlags f d r (some (zOf r)) none none s)

end Sys2Proof.Machine
end

