-- ==== Sys2Proof/Machine/Control.lean ====
section
/-! DEFINITION. The control instructions of family 00 (spec/42_control.md R120 to R124), and the pop shared by the three
returns. -/

namespace Sys2Proof.Machine

/-- Pop the call stack into PC (R123); on an empty stack StackUnderflow is taken and nothing is written (R164, R166). `load`
is what the return does before PC is written (RETLW's W, R154). -/
def popToPc (load : State → State) (s : State) : Host.Outcome State Fault Refusal :=
  match pop s.stack with
  | .ok (a, rest) => .next ((load (s.setStack rest)).setPc a)
  | .error e => raise e s

/-- NOP (R120). -/
def execNop (s : State) : Host.Outcome State Fault Refusal := .next s

/-- CLRWDT (R121): no watchdog state, no mutation. -/
def execClrwdt (s : State) : Host.Outcome State Fault Refusal := .next s

/-- SLEEP (R122): no sleep state, the machine does not stop. -/
def execSleep (s : State) : Host.Outcome State Fault Refusal := .next s

/-- RETURN (R123). -/
def execRet (s : State) : Host.Outcome State Fault Refusal := popToPc id s

/-- RETFIE (R124): exactly RETURN; INTCON is not written and no interrupt exists (R170). -/
def execRetfie (s : State) : Host.Outcome State Fault Refusal := popToPc id s

end Sys2Proof.Machine
end

