-- ==== Sys2Proof/Machine/Jump.lean ====
section
/-! DEFINITION. The jump instructions (spec/44_jump.md R140 to R142). PC is already the address after the instruction. -/

namespace Sys2Proof.Machine

/-- CALL (R141): push PC, then redirect; on a full stack the call is not made and StackOverflow is taken (R163, R166). -/
def execCall (k : JumpLit) (s : State) : Host.Outcome State Fault Refusal :=
  match push s.stack s.pc with
  | .ok st => .next ((s.setStack st).setPc (target k s))
  | .error e => raise e s

/-- GOTO (R142). -/
def execGoto (k : JumpLit) (s : State) : Host.Outcome State Fault Refusal :=
  .next (s.setPc (target k s))

end Sys2Proof.Machine
end

