-- ==== Sys2Proof/Machine/Literal.lean ====
section
/-! DEFINITION. The literal instructions (spec/45_literal.md R150 to R156). -/

namespace Sys2Proof.Machine

/-- ADDLW (R150). -/
def execAddlw (k : Byte) (s : State) : Host.Outcome State Fault Refusal :=
  let r := s.w + k
  .next (litOpFlags r (some (zOf r)) (some (cOfAdd s.cfg.carry s.w k)) (some (dcOfAdd s.w k)) s)

/-- ANDLW (R151). -/
def execAndlw (k : Byte) (s : State) : Host.Outcome State Fault Refusal :=
  let r := s.w &&& k
  .next (litOpFlags r (some (zOf r)) none none s)

/-- IORLW (R152). -/
def execIorlw (k : Byte) (s : State) : Host.Outcome State Fault Refusal :=
  let r := s.w ||| k
  .next (litOpFlags r (some (zOf r)) none none s)

/-- MOVLW (R153): no flag. -/
def execMovlw (k : Byte) (s : State) : Host.Outcome State Fault Refusal := .next (s.setW k)

/-- RETLW (R154): on an empty stack W is not loaded (decision D21). -/
def execRetlw (k : Byte) (s : State) : Host.Outcome State Fault Refusal := popToPc (fun t => t.setW k) s

/-- SUBLW (R155): literal minus W. -/
def execSublw (k : Byte) (s : State) : Host.Outcome State Fault Refusal :=
  let r := k - s.w
  let fl := subFlags s.cfg.subRule k s.w
  .next (litOpFlags r (some (zOf r)) (some fl.1) (some fl.2) s)

/-- XORLW (R156). -/
def execXorlw (k : Byte) (s : State) : Host.Outcome State Fault Refusal :=
  let r := s.w ^^^ k
  .next (litOpFlags r (some (zOf r)) none none s)

end Sys2Proof.Machine
end

