-- ==== Sys2Proof/Machine/Step.lean ====
section
/-! DEFINITION. One step (spec/40_execution_and_alu.md R80). -/

namespace Sys2Proof.Machine

/-- The step of R80. Before the first reset it changes nothing (R165); a word that matches no row ends the step after the
fetch and the advance of PC (R161). Both are errors taken by `raise`; what the step reports is `stepReport`. -/
def step (s : State) : Host.Outcome State Fault Refusal :=
  if s.ready then
    match decode s.fetch.ir with
    | .ok i => exec i s.fetch
    | .error (.unrecognizedWord w) => raise (.decodeError w) s.fetch
  else raise .notReady s

/-- The state with the word `w` where the next step fetches (log 9). An instruction is one 14-bit word in one cell (R60), so
the row's bit count does not matter. -/
def State.withFetchWord (s : State) (_nbits w : Nat) : State := placeFetchWord s w

end Sys2Proof.Machine
end

