-- ==== Sys2Proof/Machine/HostOps.lean ====
section
/-! DEFINITION. What the host can do between steps (spec/70_reset_and_hazards.md R180 to R182, spec/20_memory.md R53,
spec/60_exceptions.md R162, R175): power-on, reset, load and observation. -/

namespace Sys2Proof.Machine

/-- Every address below `n` written with the value a function gives it. -/
def fillCells (unlisted value : Nat → Byte) : Nat → Memory → Memory
  | 0, m => m
  | n + 1, m => fillCells unlisted value n (Memory.write unlisted m n (value n))

/-- Data memory at power-on (R180): the SFR cells of both banks 0, the GPRs as `GPR_POWER_ON` says, one value per address. -/
def powerOnByte (gpr : FileAddr → Byte) (pa : Nat) : Byte :=
  if pa % 0x80 ≤ 0x0B then 0x00#8 else gpr (BitVec.ofNat 7 pa)

/-- Power-on (R180), for the open parameters `cfg`, `GPR_POWER_ON` and `EEPROM_POWER_ON`. -/
def State.powerOn (cfg : Config) (gpr : FileAddr → Byte) (ee : Nat → Byte) : State :=
  { cfg := cfg, w := 0#8, ir := 0#14, pc := 0#13, ram := fillCells ramUnlisted (powerOnByte gpr) 0x100 [], stack := [],
    eeprom := fillCells eepromUnlisted ee cfg.eepromSize [], prog := [], ready := false }

/-- `ram[b][a] <- 0` for each of the 12 SFR addresses of a bank that starts at `base` (R181), the last first. -/
def clearSfrs (base : Nat) : Nat → Memory → Memory
  | 0, m => m
  | n + 1, m => clearSfrs base n (Memory.write ramUnlisted m (base + n) 0x00#8)

/-- Data memory after reset (R181): the SFRs cleared in both banks, then STATUS, OPTION, TRISA and TRISB. -/
def resetRam (m : Memory) : Memory :=
  ramWrite (ramWrite (ramWrite (ramWrite (clearSfrs 0x80 12 (clearSfrs 0x00 12 m)) 0x03#8 0x1C#8) 0x81#8 0xFF#8)
    0x85#8 0x1F#8) 0x86#8 0xFF#8

/-- The host's reset (R181), allowed in either engine state: GPRs, EEPROM and program memory are not touched. -/
def State.hostReset (s : State) : State :=
  { s with w := resetW, pc := resetPc, ir := resetIr, ram := resetRam s.ram, stack := [], ready := true }

/-- The cells an image fills, from address `a` up (R182). -/
def imageCells (a : Nat) : List Nat → ProgMemory
  | [] => []
  | w :: ws => (a, BitVec.ofNat 14 w) :: imageCells (a + 1) ws

/-- The host's load (R182): only program memory changes; cells above the image become unset (decision D20). -/
def State.load (s : State) (words : List Nat) : Except LoadError State :=
  if s.cfg.progSize < words.length then .error .oversized
  else if words.all wordOk then .ok { s with prog := imageCells 0 words }
  else .error .notAWord

/-- An observer's read of a data-memory cell by bank and address (R53, R162). -/
def State.observeRam (s : State) (bank a : Nat) : Except Fault Byte :=
  if bank < 2 ∧ a < 0x80 then .ok (s.memRead (BitVec.ofNat 8 (bank * 0x80 + a)))
  else .error (.addressOutOfBounds (.data bank) a)

/-- An observer's read of a program-memory cell: `none` is *unset* (R53, R162). -/
def State.observeProg (s : State) (a : Nat) : Except Fault (Option InsnWord) :=
  if a < s.cfg.progSize then .ok (cellFind s.prog a) else .error (.addressOutOfBounds .program a)

/-- An observer's read of an EEPROM cell (R53, R162). -/
def State.observeEeprom (s : State) (a : Nat) : Except Fault Byte :=
  if a < s.cfg.eepromSize then .ok (Memory.read eepromUnlisted s.eeprom a)
  else .error (.addressOutOfBounds .eeprom a)

/-- `isFull` (R29). -/
def State.stackIsFull (s : State) : Bool := s.stack.length == stackDepth

/-- `isEmpty` (R29). -/
def State.stackIsEmpty (s : State) : Bool := s.stack.isEmpty

/-- An observer's `Top()` (R30, decision D35). -/
def State.stackTop (s : State) : Except StepError ProgAddr := top s.stack

end Sys2Proof.Machine
end

