-- ==== Sys2Proof/Machine/Report.lean ====
section
/-! DEFINITION. What a step reports to the host (spec/60_exceptions.md R160 to R166, R183): an output, a function of the state
before the step. Nothing in the state records it (R160, log 1). -/

namespace Sys2Proof.Machine

/-- The error a value of `Except` holds. -/
def errorIn {α : Type} : Except StepError α → Option StepError
  | .ok _ => none
  | .error e => some e

/-- The error an instruction raises when it runs in `s` (R163, R164, R168): CALL on a full stack, a return on an empty one,
no other. -/
def errorOf (i : Instr) (s : State) : Option StepError :=
  match i with
  | .call _ => errorIn (push s.stack s.pc)
  | .ret | .retfie | .retlw _ => errorIn (pop s.stack)
  | .addwf _ _ | .andwf _ _ | .clrf _ | .clrw | .comf _ _ | .decf _ _ | .decfsz _ _ | .incf _ _ | .incfsz _ _
  | .iorwf _ _ | .movf _ _ | .movwf _ | .nop | .rlf _ _ | .rrf _ _ | .subwf _ _ | .swapf _ _ | .xorwf _ _
  | .bcf _ _ | .bsf _ _ | .btfsc _ _ | .btfss _ _
  | .addlw _ | .andlw _ | .iorlw _ | .movlw _ | .sublw _ | .xorlw _
  | .goto _ | .clrwdt | .sleep => none

/-- The error the next step ends with, if any (R161 to R165). -/
def stepError (s : State) : Option StepError :=
  if s.ready then
    match decode s.fetch.ir with
    | .ok i => errorOf i s.fetch
    | .error (.unrecognizedWord w) => some (.decodeError w)
  else some .notReady

/-- PC after the next step (R14, R80). -/
def nextPc (s : State) : ProgAddr :=
  match step s with
  | .next t => t.pc
  | .fault _ => s.pc
  | .refused _ => s.pc

/-- What the next step answers its caller: `ok(PC)` or `error(outcome)` (R80 step 5, R166 d, R183). -/
def stepReport (s : State) : StepReport :=
  match stepError s with
  | some e => .error e
  | none => .ok (nextPc s)

end Sys2Proof.Machine
end

