-- ==== Sys2Proof/Safety.lean ====
section
/-! DEFINITION. The terms claims are stated in: invariants of the machine, a step without error, and the spec's own arithmetic
reading of a result, a flag and a routed write, written apart from the operations that compute them. -/

namespace Sys2Proof.Machine

/-! ### Invariants -/

/-- Every memory is in its canonical form: data memory below 0x100, the EEPROM below `EEPROM_SIZE`, program memory below
`PROG_SIZE` (R15, R31, R32). -/
abbrev MemoriesCanonical (s : State) : Prop :=
  Memory.wf ramUnlisted 0x100 s.ram ∧ Memory.wf eepromUnlisted s.cfg.eepromSize s.eeprom ∧
    ProgMemory.wf s.cfg.progSize s.prog

/-- The file addresses with distinct storage per bank: 0x01 and 0x05 to 0x09 (R18, R20, R43). -/
def bankPrivate (a : Nat) : Bool := decide (a = 0x01) || (decide (0x05 ≤ a) && decide (a ≤ 0x09))

/-- The two banks hold the same byte at every mapped SFR address and every GPR address (R44). -/
abbrev BanksAgree (s : State) : Prop :=
  ∀ a : FileAddr, bankPrivate a.toNat = false →
    s.memRead (BitVec.ofNat 8 a.toNat) = s.memRead (BitVec.ofNat 8 (0x80 + a.toNat))

/-- "Invariant: depth ∈ [0,8]" (R29). -/
abbrev StackBounded (s : State) : Prop := s.stack.length ≤ 8

/-- The invariant of the machine. -/
abbrev Inv (s : State) : Prop := MemoriesCanonical s ∧ BanksAgree s ∧ StackBounded s

/-! ### Runs -/

/-- The next step completes normally: it reports no error outcome (R160, R167). -/
def SafeStep (s : State) : Prop := stepError s = none

/-- The end of a run by the program's convention of R185: the word at PC is a GOTO whose target is PC. -/
def endOfRun (s : State) : Prop := ∃ k, decode (s.progRead s.pc) = .ok (.goto k) ∧ target k s = s.pc

/-! ### Data memory as a function of the physical address -/

/-- The cells a write through `pa` reaches: `pa` itself, and the other bank's cell unless the address is bank-private (R43). -/
def reaches (pa qa : PhysAddr) : Bool :=
  decide (qa = pa) || (!bankPrivate (pa.toNat % 0x80) && decide (qa.toNat % 0x80 = pa.toNat % 0x80))

/-- A data memory after `MemWrite(pa, 1, v)` (R43). -/
def stored (m : PhysAddr → Byte) (pa : PhysAddr) (v : Byte) (qa : PhysAddr) : Byte :=
  if reaches pa qa then v else m qa

/-- A byte from its bits, bit 0 first. -/
def byteOfBits (b0 b1 b2 b3 b4 b5 b6 b7 : Bool) : Byte :=
  BitVec.ofBool b7 ++ BitVec.ofBool b6 ++ BitVec.ofBool b5 ++ BitVec.ofBool b4 ++ BitVec.ofBool b3 ++ BitVec.ofBool b2 ++
    BitVec.ofBool b1 ++ BitVec.ofBool b0

/-- A STATUS value with Z, C and DC replaced where given; bits 3 to 7 as they were (R21, R86). -/
def withFlags (z c dc : Option Bool) (v : Byte) : Byte :=
  byteOfBits (c.getD (v.getLsbD 0)) (dc.getD (v.getLsbD 1)) (z.getD (v.getLsbD 2)) (v.getLsbD 3) (v.getLsbD 4)
    (v.getLsbD 5) (v.getLsbD 6) (v.getLsbD 7)

/-- A data memory after the flag write of R86. -/
def flagged (m : PhysAddr → Byte) (z c dc : Option Bool) : PhysAddr → Byte :=
  stored m 0x03#8 (withFlags z c dc (m 0x03#8))

/-- A data memory after the destination of R82: changed only for d = 1. -/
def destMemory (m : PhysAddr → Byte) (d : Dest) (pa : PhysAddr) (r : Byte) : PhysAddr → Byte :=
  match d with
  | .w => m
  | .f => stored m pa r

/-- W after the destination of R82: changed only for d = 0. -/
def destW (w : Byte) (d : Dest) (r : Byte) : Byte :=
  match d with
  | .w => r
  | .f => w

/-! ### Frames -/

/-- Nothing but W, PC and data memory may differ: IR, the call stack, the EEPROM, program memory, the readiness bit and the
parameters are unchanged. -/
def KeepsOthers (s t : State) : Prop :=
  t.ir = s.ir ∧ t.stack = s.stack ∧ t.eeprom = s.eeprom ∧ t.prog = s.prog ∧ t.ready = s.ready ∧ t.cfg = s.cfg

/-- `t` is `s` with W, PC and the whole of data memory as given, and nothing else changed. -/
def Becomes (s t : State) (w : Byte) (pc : ProgAddr) (m : PhysAddr → Byte) : Prop :=
  t.w = w ∧ t.pc = pc ∧ KeepsOthers s t ∧ ∀ qa, t.memRead qa = m qa

/-! ### The flags of R83 to R87 as arithmetic on unsigned numbers -/

/-- Z: the result is 0 (R83). -/
def zero (r : Nat) : Bool := decide (r = 0)

/-- C of an addition with this sum, under either polarity (R84). -/
def sumCarry (p : CarryPolarity) (sum : Nat) : Bool :=
  match p with
  | .noCarryOut => decide (sum ≤ 255)
  | .carryOut => decide (256 ≤ sum)

/-- DC of an addition (R85). -/
def digitSum (a b : Nat) : Bool := decide (15 < a % 16 + b % 16)

/-- (C, DC) of the subtraction m - s: no borrow, no digit borrow; or what the open parameter says (R87). -/
def borrowFlags (rule : SubFlagRule) (m s : Byte) : Bool × Bool :=
  match rule with
  | .conventional => (decide (s.toNat ≤ m.toNat), decide (s.toNat % 16 ≤ m.toNat % 16))
  | .other n => Config.subFlagsOther n m s

/-- The jump target of R140 as a number: PCLATH bits 4:3 choose the page of 2048 words. -/
def jumpTarget (s : State) (k : JumpLit) : Nat := s.pclath.toNat / 8 % 4 * 2048 + k.toNat

/-! ### Control flow -/

/-- Whether an instruction's skip is taken in `s`; `none` for an instruction that never skips (R88, R106, R108, R132, R133). -/
def skipTaken (i : Instr) (s : State) : Option Bool :=
  match i with
  | .btfsc f b => some (decide ((s.memRead (ea f s)).toNat / 2 ^ b.toNat % 2 = 0))
  | .btfss f b => some (decide ((s.memRead (ea f s)).toNat / 2 ^ b.toNat % 2 = 1))
  | .decfsz f _ => some (decide ((s.memRead (ea f s)).toNat = 1))
  | .incfsz f _ => some (decide ((s.memRead (ea f s)).toNat = 255))
  | _ => none

/-- PC after a step that runs `i` from `s`, as R14 lists the ways PC changes: advance, skip, redirect. A CALL on a stack of
more than 8 entries, which no run reaches, is not made, as on exactly 8 (R163): the model's choice, log 17. -/
def pcAfter (i : Instr) (s : State) : Nat :=
  match i with
  | .goto k => jumpTarget s k
  | .call k => if s.stack.length < 8 then jumpTarget s k else (s.pc.toNat + 1) % 8192
  | .ret | .retfie | .retlw _ =>
    match s.stack with
    | [] => (s.pc.toNat + 1) % 8192
    | a :: _ => a.toNat
  | other => if skipTaken other s = some true then (s.pc.toNat + 2) % 8192 else (s.pc.toNat + 1) % 8192

/-- The value of an SFR cell after reset, by physical address (R16, R35). -/
def sfrAfterReset (pa : Nat) : Byte :=
  match pa with
  | 0x03 => 0x1C#8
  | 0x83 => 0x1C#8
  | 0x81 => 0xFF#8
  | 0x85 => 0x1F#8
  | 0x86 => 0xFF#8
  | _ => 0x00#8

end Sys2Proof.Machine
end

