-- ==== Sys2Proof/Certificates/Slice0/Obligations.lean ====
section
/-! DEFINITION. The statements for the provers: what the spec's numbered rules say the machine does. -/

open Sys2Proof Sys2Proof.Machine

/-- For every instruction i with every operand at every value its field admits, decode (encode i) answers i. (R63, R65,
R66, R67, R68, 30_encoding.md sections 2, 3) -/
def Obligations.DecodeOfEncodeIsIdentity : Prop :=
  ∀ i : Instr, decode (encode i) = .ok i

/-- For every word w and every instruction i: w decodes to an instruction of i's row exactly when w and the row's mask
give the row's match value. (R65, R66, R67, R68, 30_encoding.md section 3) -/
def Obligations.DecoderFollowsTheOpcodeMap : Prop :=
  ∀ (w : InsnWord) (i : Instr), (∃ j, decode w = .ok j ∧ opcodeRow j = opcodeRow i) ↔ w &&& (opcodeRow i).mask = (opcodeRow i).bits

/-- For every word w that decodes to i, the canonical word of i is w with the ignored bits of i's row cleared: no operand
bit is dropped or misplaced, and the ignored bits change nothing. (R63, R70, 30_encoding.md sections 2, 4) -/
def Obligations.DecodedOperandsAreTheWordsFields : Prop :=
  ∀ (w : InsnWord) (i : Instr), decode w = .ok i → encode i = w &&& ~~~(opcodeRow i).ignored

/-- For every word w: w decodes to the error that names w exactly when w lies in one of the seven ranges of R69, and to an
instruction exactly when it does not. (R69, R71, 30_encoding.md section 4) -/
def Obligations.IllegalWordsAreExactlyTheListed : Prop :=
  ∀ w : InsnWord,
    let n := w.toNat
    let listed := (0x0001 ≤ n ∧ n ≤ 0x0007) ∨ (0x000A ≤ n ∧ n ≤ 0x001F) ∨ (0x0021 ≤ n ∧ n ≤ 0x003F) ∨
      (0x0041 ≤ n ∧ n ≤ 0x005F) ∨ (0x0061 ≤ n ∧ n ≤ 0x0062) ∨ (0x0065 ≤ n ∧ n ≤ 0x007F) ∨ (0x3B00 ≤ n ∧ n ≤ 0x3BFF)
    (decode w = .error (.unrecognizedWord w) ↔ listed) ∧ ((∃ i, decode w = .ok i) ↔ ¬ listed)

/-- One word or more of each family, written out bit by bit from R65 to R68, decodes to its instruction (a sanity
statement on fixed words). (R65, R66, R67, R68) -/
def Obligations.WrittenOutWordsDecode : Prop :=
  decode 0b00011110100000#14 = .ok (.addwf 0x20#7 .f) ∧ decode 0b00000010000101#14 = .ok (.movwf 0x05#7) ∧
    decode 0b00000001100011#14 = .ok .sleep ∧ decode 0b01011010000011#14 = .ok (.bsf 0x03#7 5#3) ∧
    decode 0b10100000000110#14 = .ok (.goto 0x006#11) ∧ decode 0b11110000111101#14 = .ok (.sublw 0x3D#8)

/-- For every operand f and state s: if f is 0, EA(f) is bank IRP (STATUS bit 7) and the low 7 bits of FSR; else bank RP0
(STATUS bit 5) and f. FSR bit 7 and STATUS bit 6 take no part. (R41) -/
def Obligations.EffectiveAddressResolution : Prop :=
  ∀ (f : FileAddr) (s : State),
    let status := (s.memRead 0x03#8).toNat
    let fsr := (s.memRead 0x04#8).toNat
    (ea f s).toNat = if f.toNat = 0 then 128 * (status / 128 % 2) + fsr % 128 else 128 * (status / 32 % 2) + f.toNat

/-- For every state, physical address pa and value v: after MemWrite(pa,1,v) every cell the routing reaches reads v (both
banks' cells unless the address is 0x01 or 0x05 to 0x09), every other cell reads as before, and nothing but data
memory changes. (R43) -/
def Obligations.MemWriteRoutesToItsCells : Prop :=
  ∀ (s : State) (pa : PhysAddr) (v : Byte),
    Becomes s (s.memWrite pa v) s.w s.pc (stored s.memRead pa v)

/-- For every state and every choice of Z, C and DC to write: after the update STATUS holds the given bits 2, 0 and 1, its
other bits and every other cell are as before, in both banks, and nothing but data memory changes. (R86) -/
def Obligations.FlagWriteChangesOnlyItsBits : Prop :=
  ∀ (s : State) (z c dc : Option Bool),
    Becomes s (s.setFlags z c dc) s.w s.pc (flagged s.memRead z c dc)

/-- For every stack of at most 8 entries: push fails with StackOverflow at 8 entries and else puts the address on top; pop
and top fail with StackUnderflow on the empty stack and else answer the newest entry. (R30) -/
def Obligations.CallStackPushAndPop : Prop :=
  ∀ (st : List ProgAddr) (a : ProgAddr), st.length ≤ 8 →
    (st.length = 8 → push st a = .error .stackOverflow) ∧ (st.length ≠ 8 → push st a = .ok (a :: st)) ∧
    pop [] = .error .stackUnderflow ∧ pop (a :: st) = .ok (a, st) ∧
    top [] = .error .stackUnderflow ∧ top (a :: st) = .ok a

/-- For every ready state s whose word at PC decodes to i, step s is exec i on s with IR the fetched word and PC advanced
by one. The fetched word is the cell's word, or 0 when PC is out of range or the cell is unset. (R80, R48, R12, R14) -/
def Obligations.StepRunsTheDecodedInstruction : Prop :=
  ∀ (s : State) (i : Instr),
    let w := if s.pc.toNat < s.cfg.progSize then (cellFind s.prog s.pc.toNat).getD 0#14 else 0#14
    s.ready = true → decode w = .ok i → step s = exec i { s with ir := w, pc := s.pc + 1#13 }

/-- For every ready state whose PC is at or above PROG_SIZE or names an unset cell: the step completes normally, IR
becomes 0, PC advances by one, and nothing else changes. (R48) -/
def Obligations.FetchOutsideTheImageRunsNop : Prop :=
  ∀ s : State, s.ready = true → (s.cfg.progSize ≤ s.pc.toNat ∨ cellFind s.prog s.pc.toNat = none) →
    step s = .next { s with ir := 0#14, pc := s.pc + 1#13 } ∧ stepReport s = .ok (s.pc + 1#13)

/-- For every state that is not ready, step answers the same state and the report is NotReady. (R165, 60_exceptions.md
section 1, log 2) -/
def Obligations.StepBeforeResetChangesNothing : Prop :=
  ∀ s : State, s.ready = false → step s = .next s ∧ stepReport s = .error .notReady

/-- For every ready state whose word at PC matches no row: the step answers the state with IR the illegal word and PC
advanced by one mod 8192, everything else unchanged, and reports DecodeError with the word. (R161, 60_exceptions.md
section 1, log 1) -/
def Obligations.IllegalWordEndsTheStepAdvanced : Prop :=
  ∀ s : State, s.ready = true → (∀ i, (s.progRead s.pc) &&& (opcodeRow i).mask ≠ (opcodeRow i).bits) →
    ∃ t, step s = .next t ∧ t = { s with ir := s.progRead s.pc, pc := t.pc } ∧ t.pc.toNat = (s.pc.toNat + 1) % 8192 ∧
      stepReport s = .error (.decodeError (s.progRead s.pc))

/-- For every ready state whose word at PC is a CALL and whose stack holds 8 entries: the step answers the state with IR
the CALL word and PC advanced by one, everything else unchanged, and reports StackOverflow. That PC is not redirected
is the spec's own decision D22. (R163, 92_eei_decisions.md D22, log 1) -/
def Obligations.CallOnFullStackIsNotMade : Prop :=
  ∀ (s : State) (k : JumpLit), s.ready = true → decode (s.progRead s.pc) = .ok (.call k) → s.stack.length = 8 →
    ∃ t, step s = .next t ∧ t = { s with ir := s.progRead s.pc, pc := t.pc } ∧ t.pc.toNat = (s.pc.toNat + 1) % 8192 ∧
      stepReport s = .error .stackOverflow

/-- For every ready state whose word at PC is RETURN, RETFIE or RETLW and whose stack is empty: the step answers the state
with IR the word and PC advanced by one, everything else, W too, unchanged, and reports StackUnderflow. That RETLW
does not load W is the spec's own decision D21. (R164, 92_eei_decisions.md D21, log 1) -/
def Obligations.ReturnOnEmptyStackIsNotMade : Prop :=
  ∀ (s : State) (i : Instr), s.ready = true → decode (s.progRead s.pc) = .ok i →
    (i = .ret ∨ i = .retfie ∨ ∃ k, i = .retlw k) → s.stack = [] →
    ∃ t, step s = .next t ∧ t = { s with ir := s.progRead s.pc, pc := t.pc } ∧ t.pc.toNat = (s.pc.toNat + 1) % 8192 ∧
      stepReport s = .error .stackUnderflow

/-- For every ready state and error e the step ends with: the step answers the state with only IR and the advanced PC
written, the engine stays ready, and the report is error e. (R166, 60_exceptions.md section 2, log 1) -/
def Obligations.AnErrorStepIsANopStep : Prop :=
  ∀ (s : State) (e : StepError), s.ready = true → stepError s = some e →
    step s = .next { s with ir := s.progRead s.pc, pc := s.pc + 1#13 } ∧ stepReport s = .error e

/-- For every state: NotReady exactly when not ready; DecodeError w exactly when ready and the fetched word w decodes to
no instruction; StackOverflow exactly when ready, the word is a CALL and the stack has no room below 8; StackUnderflow
exactly when ready, the word is a RETURN, RETFIE or RETLW and the stack is empty. R30 and R163 speak of a stack of
exactly 8 entries; that more than 8, which no run reaches (R29), also raise StackOverflow is the model's own choice,
log 17. (R160, R161, R163, R164, R165, R168, log 17) -/
def Obligations.StepErrorsAreExactlyTheListed : Prop :=
  ∀ (s : State) (e : StepError), stepError s = some e ↔
    match e with
    | .notReady => s.ready = false
    | .decodeError w => s.ready = true ∧ w = s.progRead s.pc ∧ ∀ i, decode w ≠ .ok i
    | .stackOverflow => s.ready = true ∧ 8 ≤ s.stack.length ∧ ∃ k, decode (s.progRead s.pc) = .ok (.call k)
    | .stackUnderflow => s.ready = true ∧ s.stack = [] ∧
        (decode (s.progRead s.pc) = .ok .ret ∨ decode (s.progRead s.pc) = .ok .retfie ∨
          ∃ k, decode (s.progRead s.pc) = .ok (.retlw k))

/-- For every state the step answers a next state t; the report is ok with t's PC when the step has no error, and the
error when it has one. (R183, R185, R162, R166, log 1) -/
def Obligations.EveryStepAnswersAState : Prop :=
  ∀ s : State, ∃ t, step s = .next t ∧
    (stepError s = none → stepReport s = .ok t.pc) ∧ ∀ e, stepError s = some e → stepReport s = .error e

/-- For every ready state whose word decodes to i, the step answers t with PC as R14 lists: one above mod 8192; two above
for a skip instruction whose condition holds; the target of a GOTO or of a CALL with room on the stack; the newest
stack entry of a return, if there is one. The wrap at 8191 is the spec's own decision D16, the plain advance of a CALL
that is not made its D22. R30 and R163 speak of a stack of exactly 8 entries; that a CALL is not made on more than 8,
which no run reaches (R29), is the model's own choice, log 17. (R14, R88, R140, R163, R164, 92_eei_decisions.md D16,
92_eei_decisions.md D22, log 17) -/
def Obligations.NextPcFollowsTheListedWays : Prop :=
  ∀ (s : State) (i : Instr), s.ready = true → decode (s.progRead s.pc) = .ok i →
    ∃ t, step s = .next t ∧ t.pc.toNat = pcAfter i s

/-- For every ready state whose word is BTFSC, BTFSS, DECFSZ or INCFSZ: the step answers t with IR the skipping
instruction's word and PC two above (mod 8192) if the condition holds, one above if not. (R88, R12) -/
def Obligations.SkipPassesExactlyOneWord : Prop :=
  ∀ (s : State) (i : Instr) (taken : Bool), s.ready = true → decode (s.progRead s.pc) = .ok i → skipTaken i s = some taken →
    ∃ t, step s = .next t ∧ t.ir = s.progRead s.pc ∧ t.pc.toNat = (s.pc.toNat + if taken then 2 else 1) % 8192

/-- For every state s and program memory p whose word at PC is the same: the step from s with p answers what the step from
s answers, but for program memory itself. So a skipped word, legal or not, and every other word have no effect. (R48,
R49, R52, R88) -/
def Obligations.StepDependsOnlyOnTheFetchedWord : Prop :=
  ∀ (s t : State) (p : ProgMemory), ({ s with prog := p } : State).progRead s.pc = s.progRead s.pc →
    step s = .next t → step { s with prog := p } = .next { t with prog := p }

/-- For every instruction i and state s: if exec i s answers t with another stack, i is CALL, RETURN, RETFIE or RETLW.
(R29, 10_state.md section 6) -/
def Obligations.OnlyCallAndReturnsTouchTheStack : Prop :=
  ∀ (i : Instr) (s t : State), exec i s = .next t → t.stack ≠ s.stack →
    (∃ k, i = .call k) ∨ i = .ret ∨ i = .retfie ∨ ∃ k, i = .retlw k

/-- For every state s and next state t of its step: program memory, EEPROM, readiness and parameters are unchanged, and
when s is ready IR is the word fetched at PC. (R12, R31, R32, R33, R49) -/
def Obligations.NoStepWritesProgramOrEeprom : Prop :=
  ∀ s t : State, step s = .next t →
    t.prog = s.prog ∧ t.eeprom = s.eeprom ∧ t.ready = s.ready ∧ t.cfg = s.cfg ∧ (s.ready = true → t.ir = s.progRead s.pc)

/-- Power-on makes a state in which the two banks hold the same byte at every mapped SFR and every GPR address, and every
step, reset and load keeps that, from every state that has it. (R44, R17, R19) -/
def Obligations.BanksAgreeAtEveryPoint : Prop :=
  (∀ (cfg : Config) (gpr : FileAddr → Byte) (ee : Nat → Byte), BanksAgree (State.powerOn cfg gpr ee)) ∧
    (∀ s t : State, BanksAgree s → step s = .next t → BanksAgree t) ∧
    (∀ s : State, BanksAgree s → BanksAgree s.hostReset) ∧
    ∀ (s t : State) (words : List Nat), BanksAgree s → s.load words = .ok t → BanksAgree t

/-- For every state with the machine's invariant (memories in canonical form, banks in agreement, at most 8 stack
entries), the step's next state has it. (R15, R29, R31, R32, R44) -/
def Obligations.MachineInvariantKeptByStep : Prop :=
  ∀ s t : State, Inv s → step s = .next t → Inv t

/-- State.reset has memories in canonical form, banks in agreement and at most 8 stack entries. (R29, R35, R44) -/
def Obligations.MachineInvariantAtReset : Prop :=
  Inv State.reset

/-- For all parameters power-on gives a state with the invariant; reset keeps it; a load that succeeds keeps it. (R44,
R180, R181, R182) -/
def Obligations.MachineInvariantKeptByTheHost : Prop :=
  (∀ (cfg : Config) (gpr : FileAddr → Byte) (ee : Nat → Byte), Inv (State.powerOn cfg gpr ee)) ∧
    (∀ s : State, Inv s → Inv s.hostReset) ∧
    ∀ (s t : State) (words : List Nat), Inv s → s.load words = .ok t → Inv t

/-- For all parameters: after power-on the engine is not ready, W, PC and IR are 0, the stack is empty, every program cell
is unset, every SFR cell is 0, every GPR cell of either bank is GPR_POWER_ON of its address, every EEPROM cell is
EEPROM_POWER_ON of its address, and a step does nothing. All but the readiness, the empty stack and the unset program
are the spec's own decision D19. (R180, R19, 92_eei_decisions.md D19) -/
def Obligations.PowerOnState : Prop :=
  ∀ (cfg : Config) (gpr : FileAddr → Byte) (ee : Nat → Byte),
    let s := State.powerOn cfg gpr ee
    s.ready = false ∧ s.w = 0#8 ∧ s.pc = 0#13 ∧ s.ir = 0#14 ∧ s.stack = [] ∧ (∀ a, cellFind s.prog a = none) ∧ s.cfg = cfg ∧
    (∀ pa : PhysAddr, s.memRead pa = if pa.toNat % 128 < 12 then 0#8 else gpr (BitVec.ofNat 7 (pa.toNat % 128))) ∧
    (∀ a, a < cfg.eepromSize → s.observeEeprom a = .ok (ee a)) ∧ step s = .next s

/-- For every state, ready or not: after reset W, PC and IR are 0, the stack is empty, the engine is ready, STATUS is 0x1C
in both banks, OPTION 0xFF, TRISA 0x1F, TRISB 0xFF, every other SFR cell 0, and GPRs, EEPROM, program memory and
parameters are unchanged. Clearing IR and the stack, 0 at address 0x07 and keeping the GPRs are the spec's own
decisions D8 and D18. (R181, R35, 92_eei_decisions.md D18) -/
def Obligations.ResetLeavesTheListedValues : Prop :=
  ∀ s : State,
    let t := s.hostReset
    t.w = 0#8 ∧ t.pc = 0#13 ∧ t.ir = 0#14 ∧ t.stack = [] ∧ t.ready = true ∧
    t.eeprom = s.eeprom ∧ t.prog = s.prog ∧ t.cfg = s.cfg ∧
    ∀ pa : PhysAddr, t.memRead pa = if pa.toNat % 128 < 12 then sfrAfterReset pa.toNat else s.memRead pa

/-- The fixed state after reset is what the host's reset makes of power-on with the default parameters and with GPRs and
EEPROM 0 (the model's choices of log 3, log 5 and log 6). (10_state.md section 9, log 3, log 5, log 6) -/
def Obligations.ResetStateIsPowerOnThenReset : Prop :=
  State.reset = (State.powerOn defaultConfig (fun _ => 0#8) (fun _ => 0#8)).hostReset

/-- For every state and list of numbers: if the list fits PROG_SIZE and every number is in [0, 0x3FFF], load answers the
state with program cell a the a-th word and every cell above the image unset, nothing else changed; else load fails
and answers no state. That the cells above the image become unset is the spec's own decision D20, and which images
fail is its own reading of a malformed or oversized image (log 16). (R182, 92_eei_decisions.md D20,
70_reset_and_hazards.md section 1, log 16) -/
def Obligations.LoadFillsProgramMemoryOrFails : Prop :=
  ∀ (s : State) (words : List Nat),
    (words.length ≤ s.cfg.progSize ∧ (∀ w ∈ words, w ≤ 0x3FFF) →
      ∃ t, s.load words = .ok t ∧ t = { s with prog := t.prog } ∧
        ∀ a, cellFind t.prog a = (words[a]?).map (BitVec.ofNat 14)) ∧
    (¬ (words.length ≤ s.cfg.progSize ∧ ∀ w ∈ words, w ≤ 0x3FFF) → ∃ e, s.load words = .error e)

/-- For every state and every image that fits and begins with the word of an instruction i: load then reset gives the same
state as reset then load, and the first step from it runs i with PC 1 and IR the word. (R184, R181, R182, R54) -/
def Obligations.BootRunsTheImageFromAddressZero : Prop :=
  ∀ (s : State) (w : Nat) (words : List Nat) (i : Instr), imageOk s.cfg.progSize (w :: words) = true →
    decode (BitVec.ofNat 14 w) = .ok i →
    ∃ t, (s.load (w :: words)).map State.hostReset = .ok t ∧ s.hostReset.load (w :: words) = .ok t ∧
      step t = exec i { t with ir := BitVec.ofNat 14 w, pc := 1#13 }

/-- For every state: an observer of data memory answers the cell for banks 0 and 1 and addresses 0 to 127, of program
memory below PROG_SIZE, of the EEPROM below EEPROM_SIZE; outside its array each fails with AddressOutOfBounds, naming
the space and the index. (R53, R162) -/
def Obligations.ObserversAreBoundsChecked : Prop :=
  ∀ (s : State) (bank a : Nat),
    ((bank ≤ 1 ∧ a ≤ 127) → s.observeRam bank a = .ok (s.memRead (BitVec.ofNat 8 (128 * bank + a)))) ∧
    (¬ (bank ≤ 1 ∧ a ≤ 127) → s.observeRam bank a = .error (.addressOutOfBounds (.data bank) a)) ∧
    (a < s.cfg.progSize → s.observeProg a = .ok (cellFind s.prog a)) ∧
    (s.cfg.progSize ≤ a → s.observeProg a = .error (.addressOutOfBounds .program a)) ∧
    (a < s.cfg.eepromSize → s.observeEeprom a = .ok (Memory.read eepromUnlisted s.eeprom a)) ∧
    (s.cfg.eepromSize ≤ a → s.observeEeprom a = .error (.addressOutOfBounds .eeprom a))

/-- For every state and number that decodes to i: the step from the state with that word placed is exec i on that state
after the fetch, with IR the word. (R48, R80, log 9) -/
def Obligations.PlacedWordIsTheNextFetched : Prop :=
  ∀ (s : State) (nbits w : Nat) (i : Instr), decodeTableWord nbits w = some i →
    step (s.withFetchWord nbits w) = exec i { s.withFetchWord nbits w with ir := BitVec.ofNat 14 w, pc := s.pc + 1#13 }

/-- For every operand, destination and state ADDWF answers a next state in which the destination holds W + f mod 256, then
Z, C (by CARRY_POLARITY) and DC of STATUS are those of the operands, every other register, flag and cell as before. If
the destination is STATUS the computed flags win. (R100, R83, R84, R85) -/
def Obligations.AddwfWritesSumAndFlags : Prop :=
  ∀ (f : FileAddr) (d : Dest) (s : State),
    let v := s.memRead (ea f s)
    let sum := s.w.toNat + v.toNat
    let r := BitVec.ofNat 8 (sum % 256)
    ∃ t, exec (.addwf f d) s = .next t ∧
      Becomes s t (destW s.w d r) s.pc (flagged (destMemory s.memRead d (ea f s) r)
        (some (zero (sum % 256))) (some (sumCarry s.cfg.carry sum)) (some (digitSum s.w.toNat v.toNat)))

/-- For every operand, destination and state ANDWF, IORWF and XORWF answer a next state in which the destination holds W
and, or, xor f, then Z says whether that is 0, every other register, flag and cell as before. (R101, R109, R116) -/
def Obligations.BitwiseFileOpsWriteResultAndZ : Prop :=
  ∀ (f : FileAddr) (d : Dest) (s : State),
    let v := s.memRead (ea f s)
    let after := fun (t : State) (r : Byte) => Becomes s t (destW s.w d r) s.pc
      (flagged (destMemory s.memRead d (ea f s) r) (some (zero r.toNat)) none none)
    (∃ t, exec (.andwf f d) s = .next t ∧ after t (s.w &&& v)) ∧
    (∃ t, exec (.iorwf f d) s = .next t ∧ after t (s.w ||| v)) ∧
    (∃ t, exec (.xorwf f d) s = .next t ∧ after t (s.w ^^^ v))

/-- For every operand and state CLRF clears the addressed register and CLRW clears W, then Z is set, every other register,
flag and cell as before. CLRF of STATUS leaves 0x04. (R102, R103) -/
def Obligations.ClearsWriteZeroAndSetZ : Prop :=
  ∀ (f : FileAddr) (s : State),
    (∃ t, exec (.clrf f) s = .next t ∧
      Becomes s t s.w s.pc (flagged (stored s.memRead (ea f s) 0x00#8) (some true) none none)) ∧
    (∃ t, exec .clrw s = .next t ∧ Becomes s t 0x00#8 s.pc (flagged s.memRead (some true) none none))

/-- For every operand, destination and state COMF answers a next state in which the destination holds the ones' complement
of f, then Z says whether that is 0, every other register, flag and cell as before. (R104) -/
def Obligations.ComfWritesComplementAndZ : Prop :=
  ∀ (f : FileAddr) (d : Dest) (s : State),
    let r := BitVec.ofNat 8 (255 - (s.memRead (ea f s)).toNat)
    ∃ t, exec (.comf f d) s = .next t ∧ Becomes s t (destW s.w d r) s.pc
      (flagged (destMemory s.memRead d (ea f s) r) (some (zero r.toNat)) none none)

/-- For every operand, destination and state INCF and DECF answer a next state in which the destination holds f + 1 or f -
1 mod 256 (0xFF + 1 = 0x00, 0x00 - 1 = 0xFF), then Z says whether that is 0, every other register, flag and cell as
before. (R105, R107) -/
def Obligations.IncfDecfWrapAndSetZ : Prop :=
  ∀ (f : FileAddr) (d : Dest) (s : State),
    let v := (s.memRead (ea f s)).toNat
    let after := fun (t : State) (r : Nat) => Becomes s t (destW s.w d (BitVec.ofNat 8 r)) s.pc
      (flagged (destMemory s.memRead d (ea f s) (BitVec.ofNat 8 r)) (some (zero r)) none none)
    (∃ t, exec (.incf f d) s = .next t ∧ after t (if v = 255 then 0 else v + 1)) ∧
    (∃ t, exec (.decf f d) s = .next t ∧ after t (if v = 0 then 255 else v - 1))

/-- For every operand, destination and state INCFSZ and DECFSZ answer a next state in which the destination and Z are as
after INCF or DECF and PC is one word further exactly when the result is 0, every other register, flag and cell as
before. That Z is written is the spec's own decision D14. (R106, R108, R88, 92_eei_decisions.md D14, log 12) -/
def Obligations.IncfszDecfszSkipOnZero : Prop :=
  ∀ (f : FileAddr) (d : Dest) (s : State),
    let v := (s.memRead (ea f s)).toNat
    let after := fun (t : State) (r : Nat) => Becomes s t (destW s.w d (BitVec.ofNat 8 r))
      (if r = 0 then s.pc + 1#13 else s.pc)
      (flagged (destMemory s.memRead d (ea f s) (BitVec.ofNat 8 r)) (some (zero r)) none none)
    (∃ t, exec (.incfsz f d) s = .next t ∧ after t (if v = 255 then 0 else v + 1)) ∧
    (∃ t, exec (.decfsz f d) s = .next t ∧ after t (if v = 0 then 255 else v - 1))

/-- For every operand, destination and state: MOVF writes f and SWAPF f with its nibbles exchanged to the destination,
MOVWF writes W to the register; no flag is written but as data, every other register and cell as before. That MOVF
leaves Z is the spec's own decision D13, SWAPF its D4. (R110, R111, R115, 92_eei_decisions.md D13, log 12) -/
def Obligations.MovesAndSwapWriteNoFlag : Prop :=
  ∀ (f : FileAddr) (d : Dest) (s : State),
    let v := s.memRead (ea f s)
    let r := BitVec.ofNat 8 (v.toNat % 16 * 16 + v.toNat / 16)
    (∃ t, exec (.movf f d) s = .next t ∧ Becomes s t (destW s.w d v) s.pc (destMemory s.memRead d (ea f s) v)) ∧
    (∃ t, exec (.swapf f d) s = .next t ∧ Becomes s t (destW s.w d r) s.pc (destMemory s.memRead d (ea f s) r)) ∧
    (∃ t, exec (.movwf f) s = .next t ∧ Becomes s t s.w s.pc (stored s.memRead (ea f s) s.w))

/-- For every operand, destination and state: RLF writes 2f + C mod 256 and C becomes bit 7 of f; RRF writes f/2 + 128 C
and C becomes bit 0 of f; Z, DC and every other register, bit and cell as before. C is read before any write. The
rotates are the spec's own decision D4. (R112, R113, 92_eei_decisions.md D4, log 7) -/
def Obligations.RotatesGoThroughCarry : Prop :=
  ∀ (f : FileAddr) (d : Dest) (s : State),
    let v := (s.memRead (ea f s)).toNat
    let c := (s.memRead 0x03#8).toNat % 2
    let after := fun (t : State) (r : Nat) (cy : Bool) => Becomes s t (destW s.w d (BitVec.ofNat 8 r)) s.pc
      (flagged (destMemory s.memRead d (ea f s) (BitVec.ofNat 8 r)) none (some cy) none)
    (∃ t, exec (.rlf f d) s = .next t ∧ after t ((2 * v + c) % 256) (decide (128 ≤ v))) ∧
    (∃ t, exec (.rrf f d) s = .next t ∧ after t (v / 2 + 128 * c) (decide (v % 2 = 1)))

/-- For every operand, destination and state SUBWF answers a next state in which the destination holds f - W mod 256, then
Z says whether that is 0 and C and DC are what SUB_FLAGS gives for minuend f and subtrahend W (by default no borrow
and no digit borrow), every other register, bit and cell as before. The subtraction and its flags are the spec's own
decision D3. (R114, R87, 92_eei_decisions.md D3, log 4) -/
def Obligations.SubwfWritesDifferenceAndFlags : Prop :=
  ∀ (f : FileAddr) (d : Dest) (s : State),
    let v := s.memRead (ea f s)
    let r := BitVec.ofNat 8 ((v.toNat + 256 - s.w.toNat) % 256)
    ∃ t, exec (.subwf f d) s = .next t ∧
      Becomes s t (destW s.w d r) s.pc (flagged (destMemory s.memRead d (ea f s) r) (some (zero r.toNat))
        (some (borrowFlags s.cfg.subRule v s.w).1) (some (borrowFlags s.cfg.subRule v s.w).2))

/-- For every operand, bit and state: BCF and BSF answer a next state in which the addressed register holds its old value
with bit b cleared or set, every other register and cell as before; a flag changes only as data of STATUS. (R130,
R131) -/
def Obligations.BitClearAndSetChangeOneBit : Prop :=
  ∀ (f : FileAddr) (b : BitIndex) (s : State),
    let v := (s.memRead (ea f s)).toNat
    let bit := v / 2 ^ b.toNat % 2
    (∃ t, exec (.bcf f b) s = .next t ∧
      Becomes s t s.w s.pc (stored s.memRead (ea f s) (BitVec.ofNat 8 (v - bit * 2 ^ b.toNat)))) ∧
    (∃ t, exec (.bsf f b) s = .next t ∧
      Becomes s t s.w s.pc (stored s.memRead (ea f s) (BitVec.ofNat 8 (v + (1 - bit) * 2 ^ b.toNat))))

/-- For every operand, bit and state: BTFSC answers the state with PC one word further exactly when bit b of f is 0, BTFSS
exactly when it is 1; nothing else changes. (R132, R133) -/
def Obligations.BitTestsSkipAndWriteNothing : Prop :=
  ∀ (f : FileAddr) (b : BitIndex) (s : State),
    let bit := (s.memRead (ea f s)).toNat / 2 ^ b.toNat % 2
    exec (.btfsc f b) s = .next { s with pc := if bit = 0 then s.pc + 1#13 else s.pc } ∧
    exec (.btfss f b) s = .next { s with pc := if bit = 1 then s.pc + 1#13 else s.pc }

/-- For every state (after the fetch and the advance of PC) NOP, CLRWDT and SLEEP answer the same state. (R120, R121,
R122) -/
def Obligations.NopClrwdtSleepChangeNothing : Prop :=
  ∀ s : State, exec .nop s = .next s ∧ exec .clrwdt s = .next s ∧ exec .sleep s = .next s

/-- For every state whose stack holds the entry a on top of rest: RETURN and RETFIE answer the state with PC a and stack
rest, RETLW k also with W k, nothing else changed. (R123, R124, R154) -/
def Obligations.ReturnsPopIntoPc : Prop :=
  ∀ (s : State) (a : ProgAddr) (rest : List ProgAddr) (k : Byte), s.stack = a :: rest →
    exec .ret s = .next { s with pc := a, stack := rest } ∧
    exec .retfie s = .next { s with pc := a, stack := rest } ∧
    exec (.retlw k) s = .next { s with pc := a, stack := rest, w := k }

/-- For every state with fewer than 8 stack entries CALL k answers the state with the advanced PC on top of the stack and
PC the target of k and PCLATH bits 4:3, nothing else changed. (R141, R140) -/
def Obligations.CallPushesAndJumps : Prop :=
  ∀ (s : State) (k : JumpLit), s.stack.length < 8 →
    ∃ t, exec (.call k) s = .next t ∧ t = { s with stack := s.pc :: s.stack, pc := t.pc } ∧ t.pc.toNat = jumpTarget s k

/-- For every state GOTO k answers the state with PC the number with bits 12:11 from PCLATH bits 4:3 and bits 10:0 from k,
nothing else changed. (R140, R142) -/
def Obligations.GotoJumpsToItsTarget : Prop :=
  ∀ (s : State) (k : JumpLit),
    ∃ t, exec (.goto k) s = .next t ∧ t = { s with pc := t.pc } ∧ t.pc.toNat = jumpTarget s k

/-- For every ready state with fewer than 8 stack entries whose word is CALL k and whose word at the target is RETURN: two
steps answer the state with PC one above the CALL (mod 8192) and IR the RETURN word, the stack and everything else as
before. (R123, R141, 95_test_vectors.md S6) -/
def Obligations.CallThenReturnComesBack : Prop :=
  ∀ (s : State) (k : JumpLit), s.ready = true → s.stack.length < 8 → decode (s.progRead s.pc) = .ok (.call k) →
    decode (s.progRead (target k s)) = .ok .ret →
    ∃ t, step s = .next t ∧ step t = .next { s with ir := s.progRead (target k s), pc := s.pc + 1#13 }

/-- For every ready state at the end of a run (the word at PC is a GOTO whose target is PC): the step answers the state
with IR that word, and a step from there answers the same state. (R142, R185, 92_eei_decisions.md D39) -/
def Obligations.GotoToItselfIsTheEndOfARun : Prop :=
  ∀ s : State, s.ready = true → endOfRun s →
    ∃ t, step s = .next t ∧ t = { s with ir := s.progRead s.pc } ∧ step t = .next t

/-- For every literal and state ADDLW answers a next state in which W is W + k mod 256 and Z, C (by CARRY_POLARITY) and DC
of STATUS are those of the operands, every other register, flag and cell as before. (R150, R83, R84, R85) -/
def Obligations.AddlwWritesSumAndFlags : Prop :=
  ∀ (k : Byte) (s : State),
    let sum := s.w.toNat + k.toNat
    ∃ t, exec (.addlw k) s = .next t ∧
      Becomes s t (BitVec.ofNat 8 (sum % 256)) s.pc (flagged s.memRead (some (zero (sum % 256)))
        (some (sumCarry s.cfg.carry sum)) (some (digitSum s.w.toNat k.toNat)))

/-- For every literal and state ANDLW, IORLW and XORLW answer a next state in which W is W and, or, xor k and Z says
whether that is 0, every other register, flag and cell as before. (R151, R152, R156) -/
def Obligations.BitwiseLiteralOpsWriteWAndZ : Prop :=
  ∀ (k : Byte) (s : State),
    let after := fun (t : State) (r : Byte) => Becomes s t r s.pc (flagged s.memRead (some (zero r.toNat)) none none)
    (∃ t, exec (.andlw k) s = .next t ∧ after t (s.w &&& k)) ∧
    (∃ t, exec (.iorlw k) s = .next t ∧ after t (s.w ||| k)) ∧
    (∃ t, exec (.xorlw k) s = .next t ∧ after t (s.w ^^^ k))

/-- For every literal and state MOVLW answers the state with W the literal; no flag is written. (R153) -/
def Obligations.MovlwLoadsWOnly : Prop :=
  ∀ (k : Byte) (s : State), exec (.movlw k) s = .next { s with w := k }

/-- For every literal and state SUBLW answers a next state in which W is k - W mod 256, Z says whether that is 0 and C and
DC are what SUB_FLAGS gives for minuend k and subtrahend W (by default no borrow and no digit borrow), every other
register, bit and cell as before. The subtraction and its flags are the spec's own decision D3. (R155, R87,
92_eei_decisions.md D3, log 4) -/
def Obligations.SublwWritesDifferenceAndFlags : Prop :=
  ∀ (k : Byte) (s : State),
    let r := BitVec.ofNat 8 ((k.toNat + 256 - s.w.toNat) % 256)
    ∃ t, exec (.sublw k) s = .next t ∧
      Becomes s t r s.pc (flagged s.memRead (some (zero r.toNat))
        (some (borrowFlags s.cfg.subRule k s.w).1) (some (borrowFlags s.cfg.subRule k s.w).2))
end

