-- ==== Sys2Proof/Laws/Cells.lean ====
section
/-! SUPPORT. The laws of the sparse cells: a read after a write, and that every memory operation keeps the canonical form. -/

namespace Sys2Proof.Machine

/-! ### Reading -/

theorem cellFind_cellErase {n : Nat} (m : List (Nat × BitVec n)) (a b : Nat) :
    cellFind (cellErase m a) b = if b = a then none else cellFind m b := by
  induction m with
  | nil => simp [cellErase, cellFind]
  | cons c rest ih =>
    obtain ⟨x, v⟩ := c
    by_cases hax : a = x
    · subst hax
      simp only [cellErase, cellFind, if_true, ih]
      split <;> rfl
    · simp only [cellErase, cellFind, if_neg hax, ih]
      by_cases hbx : b = x
      · simp [hbx, Ne.symm hax]
      · simp [hbx]

theorem cellFind_cellInsert {n : Nat} (m : List (Nat × BitVec n)) (a b : Nat) (v : BitVec n)
    (h : cellFind m a = none) : cellFind (cellInsert m a v) b = if b = a then some v else cellFind m b := by
  induction m with
  | nil => simp [cellInsert, cellFind]
  | cons c rest ih =>
    obtain ⟨x, y⟩ := c
    have hax : a ≠ x := by
      intro e
      simp [cellFind, e] at h
    have hrest : cellFind rest a = none := by simpa [cellFind, hax] using h
    by_cases hlt : a < x
    · simp [cellInsert, hlt, cellFind]
    · simp only [cellInsert, if_neg hlt, cellFind, ih hrest]
      by_cases hbx : b = x
      · simp [hbx, Ne.symm hax]
      · simp [hbx]

/-- A read after a write: the value written at its address, and every other address as before. -/
theorem Memory.read_write (u : Nat → Byte) (m : Memory) (a b : Nat) (v : Byte) :
    Memory.read u (Memory.write u m a v) b = if b = a then v else Memory.read u m b := by
  unfold Memory.read Memory.write
  split
  · rename_i h
    rw [cellFind_cellErase]
    split
    · rename_i e
      simp [h, e]
    · rfl
  · rw [cellFind_cellInsert _ _ _ _ (by simp [cellFind_cellErase]), cellFind_cellErase]
    split
    · rfl
    · rfl

/-- A word placed in program memory is what its cell holds; other cells are as before. -/
theorem cellFind_progPlace (p : ProgMemory) (a b : Nat) (w : InsnWord) :
    cellFind (progPlace p a w) b = if b = a then some w else cellFind p b := by
  unfold progPlace
  rw [cellFind_cellInsert _ _ _ _ (by simp [cellFind_cellErase]), cellFind_cellErase]
  split <;> rfl

/-! ### The canonical form -/

theorem mem_cellErase {n : Nat} {m : List (Nat × BitVec n)} {a : Nat} {c : Nat × BitVec n} :
    c ∈ cellErase m a ↔ c ∈ m ∧ c.1 ≠ a := by
  induction m with
  | nil => simp [cellErase]
  | cons d rest ih =>
    obtain ⟨x, v⟩ := d
    by_cases hax : a = x
    · simp only [cellErase, if_pos hax, ih, List.mem_cons]
      constructor
      · rintro ⟨h, hn⟩
        exact ⟨.inr h, hn⟩
      · rintro ⟨rfl | h, hn⟩
        · exact absurd hax.symm hn
        · exact ⟨h, hn⟩
    · simp only [cellErase, if_neg hax, List.mem_cons, ih]
      constructor
      · rintro (rfl | ⟨h, hn⟩)
        · exact ⟨.inl rfl, Ne.symm hax⟩
        · exact ⟨.inr h, hn⟩
      · rintro ⟨rfl | h, hn⟩
        · exact .inl rfl
        · exact .inr ⟨h, hn⟩

theorem mem_cellInsert {n : Nat} {m : List (Nat × BitVec n)} {a : Nat} {v : BitVec n} {c : Nat × BitVec n} :
    c ∈ cellInsert m a v ↔ c = (a, v) ∨ c ∈ m := by
  induction m with
  | nil => simp [cellInsert]
  | cons d rest ih =>
    obtain ⟨x, y⟩ := d
    by_cases hlt : a < x
    · simp [cellInsert, hlt]
    · simp only [cellInsert, if_neg hlt, List.mem_cons, ih]
      tauto

theorem cellErase_rising {n : Nat} {m : List (Nat × BitVec n)} (a : Nat)
    (h : m.Pairwise (fun x y => x.1 < y.1)) : (cellErase m a).Pairwise (fun x y => x.1 < y.1) := by
  induction m with
  | nil => simp [cellErase]
  | cons d rest ih =>
    obtain ⟨x, v⟩ := d
    obtain ⟨hx, hr⟩ := List.pairwise_cons.mp h
    by_cases hax : a = x
    · simpa [cellErase, hax] using ih hr
    · simp only [cellErase, if_neg hax]
      exact List.pairwise_cons.mpr ⟨fun c hc => hx c (mem_cellErase.mp hc).1, ih hr⟩

theorem cellInsert_rising {n : Nat} {m : List (Nat × BitVec n)} (a : Nat) (v : BitVec n)
    (h : m.Pairwise (fun x y => x.1 < y.1)) (hn : ∀ c ∈ m, c.1 ≠ a) :
    (cellInsert m a v).Pairwise (fun x y => x.1 < y.1) := by
  induction m with
  | nil => simp [cellInsert]
  | cons d rest ih =>
    obtain ⟨x, y⟩ := d
    obtain ⟨hx, hr⟩ := List.pairwise_cons.mp h
    by_cases hlt : a < x
    · simp only [cellInsert, if_pos hlt]
      refine List.pairwise_cons.mpr ⟨fun c hc => ?_, h⟩
      rcases List.mem_cons.mp hc with rfl | hc
      · exact hlt
      · exact Nat.lt_trans hlt (hx c hc)
    · simp only [cellInsert, if_neg hlt]
      have hne : x ≠ a := hn (x, y) (List.mem_cons_self ..)
      refine List.pairwise_cons.mpr ⟨fun c hc => ?_, ih hr fun c hc => hn c (List.mem_cons_of_mem _ hc)⟩
      rcases mem_cellInsert.mp hc with rfl | hc
      · show x < a
        omega
      · exact hx c hc

/-- A write keeps the canonical form. -/
theorem Memory.wf_write {u : Nat → Byte} {bound : Nat} {m : Memory} (h : Memory.wf u bound m) {a : Nat}
    (ha : a < bound) (v : Byte) : Memory.wf u bound (Memory.write u m a v) := by
  obtain ⟨hs, hb⟩ := h
  unfold Memory.write
  split
  · exact ⟨cellErase_rising a hs, fun c hc => hb c (mem_cellErase.mp hc).1⟩
  · rename_i hv
    refine ⟨cellInsert_rising a v (cellErase_rising a hs) fun c hc => (mem_cellErase.mp hc).2, fun c hc => ?_⟩
    rcases mem_cellInsert.mp hc with rfl | hc
    · exact ⟨ha, hv⟩
    · exact hb c (mem_cellErase.mp hc).1

/-- A word placed below the size keeps program memory's canonical form. -/
theorem ProgMemory.wf_progPlace {size : Nat} {p : ProgMemory} (h : ProgMemory.wf size p) {a : Nat} (ha : a < size)
    (w : InsnWord) : ProgMemory.wf size (progPlace p a w) := by
  obtain ⟨hs, hb⟩ := h
  refine ⟨cellInsert_rising a w (cellErase_rising a hs) fun c hc => (mem_cellErase.mp hc).2, fun c hc => ?_⟩
  rcases mem_cellInsert.mp hc with rfl | hc
  · exact ha
  · exact hb c (mem_cellErase.mp hc).1

theorem physAddr_lt (b : Bool) (a : FileAddr) : (physAddr b a).toNat < 0x100 := (physAddr b a).isLt

/-- The routed write of R43 keeps the canonical form. -/
theorem ramWrite_wf {m : Memory} (h : Memory.wf ramUnlisted 0x100 m) (pa : PhysAddr) (v : Byte) :
    Memory.wf ramUnlisted 0x100 (ramWrite m pa v) := by
  unfold ramWrite
  dsimp only
  split
  · exact Memory.wf_write (Memory.wf_write h (physAddr_lt _ _) v) (physAddr_lt _ _) v
  · exact Memory.wf_write h pa.isLt v

theorem fillCells_wf {u value : Nat → Byte} {bound : Nat} {m : Memory} (h : Memory.wf u bound m) :
    ∀ n, n ≤ bound → Memory.wf u bound (fillCells u value n m)
  | 0, _ => h
  | n + 1, hn => by
    have := fillCells_wf (value := value) (Memory.wf_write h (show n < bound by omega) (value n)) n (by omega)
    simpa [fillCells] using this

theorem clearSfrs_wf {base : Nat} : ∀ (n : Nat) {m : Memory}, base + n ≤ 0x100 → Memory.wf ramUnlisted 0x100 m →
    Memory.wf ramUnlisted 0x100 (clearSfrs base n m)
  | 0, _, _, h => h
  | n + 1, _, hn, h => by
    simpa [clearSfrs] using clearSfrs_wf n (by omega) (Memory.wf_write h (show base + n < 0x100 by omega) 0x00#8)

/-- The reset's writes keep the canonical form (R181). -/
theorem resetRam_wf {m : Memory} (h : Memory.wf ramUnlisted 0x100 m) : Memory.wf ramUnlisted 0x100 (resetRam m) :=
  ramWrite_wf (ramWrite_wf (ramWrite_wf (ramWrite_wf
    (clearSfrs_wf 12 (by decide) (clearSfrs_wf 12 (by decide) h)) _ _) _ _) _ _) _ _

/-- A loaded image is in canonical form (R182). -/
theorem imageCells_wf : ∀ (words : List Nat) (a : Nat), ProgMemory.wf (a + words.length) (imageCells a words) ∧
    ∀ c ∈ imageCells a words, a ≤ c.1
  | [], a => by simp [imageCells, ProgMemory.wf]
  | w :: ws, a => by
    obtain ⟨⟨hs, hb⟩, hl⟩ := imageCells_wf ws (a + 1)
    refine ⟨⟨List.pairwise_cons.mpr ⟨fun c hc => ?_, hs⟩, fun c hc => ?_⟩, fun c hc => ?_⟩
    · have := hl c hc
      show a < c.1
      omega
    · rcases List.mem_cons.mp hc with rfl | hc
      · simp
      · have := hb c hc
        simp only [List.length_cons]
        omega
    · rcases List.mem_cons.mp hc with rfl | hc
      · exact Nat.le_refl _
      · have := hl c hc
        omega

/-- The memories of the state after reset are in canonical form. -/
theorem reset_memories_wf : Memory.wf ramUnlisted 0x100 State.reset.ram ∧
    Memory.wf eepromUnlisted State.reset.cfg.eepromSize State.reset.eeprom ∧
    ProgMemory.wf State.reset.cfg.progSize State.reset.prog := by
  simp [State.reset, Memory.wf, ProgMemory.wf]

/-! ### The reset's and the power-on's bytes -/

theorem read_fillCells (u value : Nat → Byte) (b : Nat) : ∀ (n : Nat) (m : Memory),
    Memory.read u (fillCells u value n m) b = if b < n then value b else Memory.read u m b
  | 0, m => by simp [fillCells]
  | n + 1, m => by
    rw [fillCells, read_fillCells u value b n, Memory.read_write]
    by_cases h : b < n
    · simp [h, Nat.lt_succ_of_lt h]
    · by_cases e : b = n
      · simp [e]
      · simp [h, e, show ¬ b < n + 1 by omega]

theorem read_clearSfrs (base b : Nat) : ∀ (n : Nat) (m : Memory),
    Memory.read ramUnlisted (clearSfrs base n m) b =
      if base ≤ b ∧ b < base + n then 0x00#8 else Memory.read ramUnlisted m b
  | 0, m => by simp [clearSfrs, show ¬ (base ≤ b ∧ b < base) by omega]
  | n + 1, m => by
    rw [clearSfrs, read_clearSfrs base b n, Memory.read_write]
    by_cases h : base ≤ b ∧ b < base + n
    · simp [h, show base ≤ b ∧ b < base + (n + 1) by omega]
    · by_cases e : b = base + n
      · simp [e]
      · simp [h, e, show ¬ (base ≤ b ∧ b < base + (n + 1)) by omega]

theorem cellFind_imageCells (b : Nat) : ∀ (words : List Nat) (a : Nat),
    cellFind (imageCells a words) b = if a ≤ b then (words[b - a]?).map (BitVec.ofNat 14) else none
  | [], a => by simp [imageCells, cellFind]
  | w :: ws, a => by
    simp only [imageCells, cellFind, cellFind_imageCells b ws (a + 1)]
    by_cases h : b = a
    · simp [h]
    · by_cases h1 : a ≤ b
      · have h2 : a + 1 ≤ b := by omega
        have h3 : b - a = (b - (a + 1)) + 1 := by omega
        simp [h, h1, h2, h3]
      · simp [h, h1, show ¬ a + 1 ≤ b by omega]

/-! ### The host's operations -/

/-- All a load that succeeds does (R182). -/
theorem load_ok {s t : State} {words : List Nat} (h : s.load words = .ok t) :
    words.length ≤ s.cfg.progSize ∧ words.all wordOk = true ∧ t = { s with prog := imageCells 0 words } := by
  unfold State.load at h
  split at h
  · cases h
  · split at h
    · rename_i h1 h2
      cases h
      exact ⟨Nat.le_of_not_lt h1, h2, rfl⟩
    · cases h

theorem empty_wf (u : Nat → Byte) (bound : Nat) : Memory.wf u bound [] := by simp [Memory.wf]

/-- The memories of the state after power-on are in canonical form. -/
theorem powerOn_memories_wf (cfg : Config) (gpr : FileAddr → Byte) (ee : Nat → Byte) :
    Memory.wf ramUnlisted 0x100 (State.powerOn cfg gpr ee).ram ∧
      Memory.wf eepromUnlisted cfg.eepromSize (State.powerOn cfg gpr ee).eeprom ∧
      ProgMemory.wf cfg.progSize (State.powerOn cfg gpr ee).prog := by
  have hr := fillCells_wf (value := powerOnByte gpr) (empty_wf ramUnlisted 0x100) 0x100 (Nat.le_refl 0x100)
  have he := fillCells_wf (value := ee) (empty_wf eepromUnlisted cfg.eepromSize) cfg.eepromSize (Nat.le_refl _)
  unfold State.powerOn
  generalize fillCells ramUnlisted (powerOnByte gpr) 0x100 [] = m at hr ⊢
  exact ⟨hr, he, by simp [ProgMemory.wf]⟩

/-- A byte of data memory after power-on (R180). -/
theorem powerOn_read (cfg : Config) (gpr : FileAddr → Byte) (ee : Nat → Byte) (pa : PhysAddr) :
    (State.powerOn cfg gpr ee).memRead pa = powerOnByte gpr pa.toNat := by
  unfold State.memRead State.powerOn
  rw [read_fillCells, if_pos pa.isLt]

end Sys2Proof.Machine
end

