-- ==== Sys2Proof/Laws/State.lean ====
section
/-! SUPPORT. The fields of `State` under each update: one lemma per field and update, so that no later proof unfolds a record
update. -/

namespace Sys2Proof.Machine

/-! ### `setW` -/
@[simp] theorem setW_cfg (s : State) (v : Byte) : (s.setW v).cfg = s.cfg := rfl
@[simp] theorem setW_w (s : State) (v : Byte) : (s.setW v).w = v := rfl
@[simp] theorem setW_ir (s : State) (v : Byte) : (s.setW v).ir = s.ir := rfl
@[simp] theorem setW_pc (s : State) (v : Byte) : (s.setW v).pc = s.pc := rfl
@[simp] theorem setW_ram (s : State) (v : Byte) : (s.setW v).ram = s.ram := rfl
@[simp] theorem setW_stack (s : State) (v : Byte) : (s.setW v).stack = s.stack := rfl
@[simp] theorem setW_eeprom (s : State) (v : Byte) : (s.setW v).eeprom = s.eeprom := rfl
@[simp] theorem setW_prog (s : State) (v : Byte) : (s.setW v).prog = s.prog := rfl
@[simp] theorem setW_ready (s : State) (v : Byte) : (s.setW v).ready = s.ready := rfl

/-! ### `setPc` -/
@[simp] theorem setPc_cfg (s : State) (v : ProgAddr) : (s.setPc v).cfg = s.cfg := rfl
@[simp] theorem setPc_w (s : State) (v : ProgAddr) : (s.setPc v).w = s.w := rfl
@[simp] theorem setPc_ir (s : State) (v : ProgAddr) : (s.setPc v).ir = s.ir := rfl
@[simp] theorem setPc_pc (s : State) (v : ProgAddr) : (s.setPc v).pc = v := rfl
@[simp] theorem setPc_ram (s : State) (v : ProgAddr) : (s.setPc v).ram = s.ram := rfl
@[simp] theorem setPc_stack (s : State) (v : ProgAddr) : (s.setPc v).stack = s.stack := rfl
@[simp] theorem setPc_eeprom (s : State) (v : ProgAddr) : (s.setPc v).eeprom = s.eeprom := rfl
@[simp] theorem setPc_prog (s : State) (v : ProgAddr) : (s.setPc v).prog = s.prog := rfl
@[simp] theorem setPc_ready (s : State) (v : ProgAddr) : (s.setPc v).ready = s.ready := rfl

/-! ### `setIr` -/
@[simp] theorem setIr_cfg (s : State) (v : InsnWord) : (s.setIr v).cfg = s.cfg := rfl
@[simp] theorem setIr_w (s : State) (v : InsnWord) : (s.setIr v).w = s.w := rfl
@[simp] theorem setIr_ir (s : State) (v : InsnWord) : (s.setIr v).ir = v := rfl
@[simp] theorem setIr_pc (s : State) (v : InsnWord) : (s.setIr v).pc = s.pc := rfl
@[simp] theorem setIr_ram (s : State) (v : InsnWord) : (s.setIr v).ram = s.ram := rfl
@[simp] theorem setIr_stack (s : State) (v : InsnWord) : (s.setIr v).stack = s.stack := rfl
@[simp] theorem setIr_eeprom (s : State) (v : InsnWord) : (s.setIr v).eeprom = s.eeprom := rfl
@[simp] theorem setIr_prog (s : State) (v : InsnWord) : (s.setIr v).prog = s.prog := rfl
@[simp] theorem setIr_ready (s : State) (v : InsnWord) : (s.setIr v).ready = s.ready := rfl

/-! ### `setStack` -/
@[simp] theorem setStack_cfg (s : State) (st : List ProgAddr) : (s.setStack st).cfg = s.cfg := rfl
@[simp] theorem setStack_w (s : State) (st : List ProgAddr) : (s.setStack st).w = s.w := rfl
@[simp] theorem setStack_ir (s : State) (st : List ProgAddr) : (s.setStack st).ir = s.ir := rfl
@[simp] theorem setStack_pc (s : State) (st : List ProgAddr) : (s.setStack st).pc = s.pc := rfl
@[simp] theorem setStack_ram (s : State) (st : List ProgAddr) : (s.setStack st).ram = s.ram := rfl
@[simp] theorem setStack_stack (s : State) (st : List ProgAddr) : (s.setStack st).stack = st := rfl
@[simp] theorem setStack_eeprom (s : State) (st : List ProgAddr) : (s.setStack st).eeprom = s.eeprom := rfl
@[simp] theorem setStack_prog (s : State) (st : List ProgAddr) : (s.setStack st).prog = s.prog := rfl
@[simp] theorem setStack_ready (s : State) (st : List ProgAddr) : (s.setStack st).ready = s.ready := rfl

/-! ### `memWrite` -/
@[simp] theorem memWrite_cfg (s : State) (pa : PhysAddr) (v : Byte) : (s.memWrite pa v).cfg = s.cfg := rfl
@[simp] theorem memWrite_w (s : State) (pa : PhysAddr) (v : Byte) : (s.memWrite pa v).w = s.w := rfl
@[simp] theorem memWrite_ir (s : State) (pa : PhysAddr) (v : Byte) : (s.memWrite pa v).ir = s.ir := rfl
@[simp] theorem memWrite_pc (s : State) (pa : PhysAddr) (v : Byte) : (s.memWrite pa v).pc = s.pc := rfl
@[simp] theorem memWrite_ram (s : State) (pa : PhysAddr) (v : Byte) : (s.memWrite pa v).ram = ramWrite s.ram pa v := rfl
@[simp] theorem memWrite_stack (s : State) (pa : PhysAddr) (v : Byte) : (s.memWrite pa v).stack = s.stack := rfl
@[simp] theorem memWrite_eeprom (s : State) (pa : PhysAddr) (v : Byte) : (s.memWrite pa v).eeprom = s.eeprom := rfl
@[simp] theorem memWrite_prog (s : State) (pa : PhysAddr) (v : Byte) : (s.memWrite pa v).prog = s.prog := rfl
@[simp] theorem memWrite_ready (s : State) (pa : PhysAddr) (v : Byte) : (s.memWrite pa v).ready = s.ready := rfl

/-! ### `setFlags` -/
@[simp] theorem setFlags_cfg (s : State) (z c dc : Option Bool) : (s.setFlags z c dc).cfg = s.cfg := rfl
@[simp] theorem setFlags_w (s : State) (z c dc : Option Bool) : (s.setFlags z c dc).w = s.w := rfl
@[simp] theorem setFlags_ir (s : State) (z c dc : Option Bool) : (s.setFlags z c dc).ir = s.ir := rfl
@[simp] theorem setFlags_pc (s : State) (z c dc : Option Bool) : (s.setFlags z c dc).pc = s.pc := rfl
@[simp] theorem setFlags_ram (s : State) (z c dc : Option Bool) :
    (s.setFlags z c dc).ram = ramWrite s.ram 0x03#8 (applyFlags z c dc s.status) := rfl
@[simp] theorem setFlags_stack (s : State) (z c dc : Option Bool) : (s.setFlags z c dc).stack = s.stack := rfl
@[simp] theorem setFlags_eeprom (s : State) (z c dc : Option Bool) : (s.setFlags z c dc).eeprom = s.eeprom := rfl
@[simp] theorem setFlags_prog (s : State) (z c dc : Option Bool) : (s.setFlags z c dc).prog = s.prog := rfl
@[simp] theorem setFlags_ready (s : State) (z c dc : Option Bool) : (s.setFlags z c dc).ready = s.ready := rfl

/-! ### `writeDest` -/
@[simp] theorem writeDest_cfg (s : State) (d : Dest) (pa : PhysAddr) (r : Byte) :
    (s.writeDest d pa r).cfg = s.cfg := by cases d <;> rfl
@[simp] theorem writeDest_w (s : State) (d : Dest) (pa : PhysAddr) (r : Byte) :
    (s.writeDest d pa r).w = if d = .w then r else s.w := by cases d <;> rfl
@[simp] theorem writeDest_ir (s : State) (d : Dest) (pa : PhysAddr) (r : Byte) :
    (s.writeDest d pa r).ir = s.ir := by cases d <;> rfl
@[simp] theorem writeDest_pc (s : State) (d : Dest) (pa : PhysAddr) (r : Byte) :
    (s.writeDest d pa r).pc = s.pc := by cases d <;> rfl
@[simp] theorem writeDest_ram (s : State) (d : Dest) (pa : PhysAddr) (r : Byte) :
    (s.writeDest d pa r).ram = if d = .w then s.ram else ramWrite s.ram pa r := by cases d <;> rfl
@[simp] theorem writeDest_stack (s : State) (d : Dest) (pa : PhysAddr) (r : Byte) :
    (s.writeDest d pa r).stack = s.stack := by cases d <;> rfl
@[simp] theorem writeDest_eeprom (s : State) (d : Dest) (pa : PhysAddr) (r : Byte) :
    (s.writeDest d pa r).eeprom = s.eeprom := by cases d <;> rfl
@[simp] theorem writeDest_prog (s : State) (d : Dest) (pa : PhysAddr) (r : Byte) :
    (s.writeDest d pa r).prog = s.prog := by cases d <;> rfl
@[simp] theorem writeDest_ready (s : State) (d : Dest) (pa : PhysAddr) (r : Byte) :
    (s.writeDest d pa r).ready = s.ready := by cases d <;> rfl

/-! ### `incPc` and `skipIf` -/
@[simp] theorem incPc_eq (s : State) : s.incPc = s.setPc (s.pc + 1#13) := rfl
@[simp] theorem skipIf_cfg (s : State) (c : Bool) : (s.skipIf c).cfg = s.cfg := by cases c <;> rfl
@[simp] theorem skipIf_w (s : State) (c : Bool) : (s.skipIf c).w = s.w := by cases c <;> rfl
@[simp] theorem skipIf_ir (s : State) (c : Bool) : (s.skipIf c).ir = s.ir := by cases c <;> rfl
@[simp] theorem skipIf_pc (s : State) (c : Bool) : (s.skipIf c).pc = if c then s.pc + 1#13 else s.pc := by cases c <;> rfl
@[simp] theorem skipIf_ram (s : State) (c : Bool) : (s.skipIf c).ram = s.ram := by cases c <;> rfl
@[simp] theorem skipIf_stack (s : State) (c : Bool) : (s.skipIf c).stack = s.stack := by cases c <;> rfl
@[simp] theorem skipIf_eeprom (s : State) (c : Bool) : (s.skipIf c).eeprom = s.eeprom := by cases c <;> rfl
@[simp] theorem skipIf_prog (s : State) (c : Bool) : (s.skipIf c).prog = s.prog := by cases c <;> rfl
@[simp] theorem skipIf_ready (s : State) (c : Bool) : (s.skipIf c).ready = s.ready := by cases c <;> rfl

/-! ### `fetch` -/
@[simp] theorem fetch_cfg (s : State) : s.fetch.cfg = s.cfg := rfl
@[simp] theorem fetch_w (s : State) : s.fetch.w = s.w := rfl
@[simp] theorem fetch_ir (s : State) : s.fetch.ir = s.progRead s.pc := rfl
@[simp] theorem fetch_pc (s : State) : s.fetch.pc = s.pc + 1#13 := rfl
@[simp] theorem fetch_ram (s : State) : s.fetch.ram = s.ram := rfl
@[simp] theorem fetch_stack (s : State) : s.fetch.stack = s.stack := rfl
@[simp] theorem fetch_eeprom (s : State) : s.fetch.eeprom = s.eeprom := rfl
@[simp] theorem fetch_prog (s : State) : s.fetch.prog = s.prog := rfl
@[simp] theorem fetch_ready (s : State) : s.fetch.ready = s.ready := rfl

/-! ### Reads of data memory do not see the other registers -/
@[simp] theorem setW_memRead (s : State) (v : Byte) (qa : PhysAddr) : (s.setW v).memRead qa = s.memRead qa := rfl
@[simp] theorem setPc_memRead (s : State) (v : ProgAddr) (qa : PhysAddr) : (s.setPc v).memRead qa = s.memRead qa := rfl
@[simp] theorem setIr_memRead (s : State) (v : InsnWord) (qa : PhysAddr) : (s.setIr v).memRead qa = s.memRead qa := rfl
@[simp] theorem setStack_memRead (s : State) (st : List ProgAddr) (qa : PhysAddr) :
    (s.setStack st).memRead qa = s.memRead qa := rfl
@[simp] theorem fetch_memRead (s : State) (qa : PhysAddr) : s.fetch.memRead qa = s.memRead qa := rfl
@[simp] theorem skipIf_memRead (s : State) (c : Bool) (qa : PhysAddr) : (s.skipIf c).memRead qa = s.memRead qa := by
  cases c <;> rfl

/-! ### The host's reset (R181): data memory is `hostReset_memRead` (Laws/Memory.lean) -/

@[simp] theorem hostReset_cfg (s : State) : s.hostReset.cfg = s.cfg := by unfold State.hostReset; dsimp only
@[simp] theorem hostReset_w (s : State) : s.hostReset.w = resetW := by unfold State.hostReset; dsimp only
@[simp] theorem hostReset_ir (s : State) : s.hostReset.ir = resetIr := by unfold State.hostReset; dsimp only
@[simp] theorem hostReset_pc (s : State) : s.hostReset.pc = resetPc := by unfold State.hostReset; dsimp only
@[simp] theorem hostReset_ram (s : State) : s.hostReset.ram = resetRam s.ram := by unfold State.hostReset; dsimp only
@[simp] theorem hostReset_stack (s : State) : s.hostReset.stack = [] := by unfold State.hostReset; dsimp only
@[simp] theorem hostReset_eeprom (s : State) : s.hostReset.eeprom = s.eeprom := by unfold State.hostReset; dsimp only
@[simp] theorem hostReset_prog (s : State) : s.hostReset.prog = s.prog := by unfold State.hostReset; dsimp only
@[simp] theorem hostReset_ready (s : State) : s.hostReset.ready = true := by unfold State.hostReset; dsimp only

end Sys2Proof.Machine
end

