-- ==== Sys2Proof/Laws/Memory.lean ====
section
/-! SUPPORT. What the shared operations of Ops, Flags and Operands do, one lemma each: the routed write of R43, the flag write
of R86, the destination of R82, the call stack of R30, taking an error (R166), fetch (R48, R80). -/

namespace Sys2Proof.Machine

/-! ### Physical addresses -/

@[simp] theorem fileOf_physAddr : ∀ (b : Bool) (a : FileAddr), fileOf (physAddr b a) = a := by decide

/-- A physical address is its bank and its file address (R15). -/
theorem physAddr_fileOf : ∀ pa : PhysAddr, physAddr (pa.getLsbD 7) (fileOf pa) = pa := by decide

theorem physAddr_toNat : ∀ (b : Bool) (a : FileAddr), (physAddr b a).toNat = (if b then 0x80 else 0) + a.toNat := by
  decide

/-- The addresses whose two banks a write updates together (R43). -/
def sharedAddr (a : FileAddr) : Bool := isMapped a || isGpr a

/-- They are all but 0x01 and 0x05 to 0x09. -/
theorem sharedAddr_iff : ∀ a : FileAddr, sharedAddr a = !(a.toNat == 1 || (decide (5 ≤ a.toNat) && decide (a.toNat ≤ 9))) := by
  decide

/-! ### The routed write (R43) -/

/-- The cells a write through `pa` changes. -/
def hits (pa qa : PhysAddr) : Bool := qa == pa || (sharedAddr (fileOf pa) && fileOf qa == fileOf pa)

theorem read_ramWrite (m : Memory) (pa qa : PhysAddr) (v : Byte) :
    Memory.read ramUnlisted (ramWrite m pa v) qa.toNat =
      if hits pa qa then v else Memory.read ramUnlisted m qa.toNat := by
  have key : ∀ x : PhysAddr, (qa.toNat = x.toNat) = (qa = x) := fun x => propext BitVec.toNat_inj
  unfold ramWrite hits sharedAddr
  dsimp only
  cases hs : (isMapped (fileOf pa) || isGpr (fileOf pa))
  · simp [Memory.read_write, key]
  · have bank : ∀ qa pa : PhysAddr, (fileOf qa = fileOf pa) ↔
        (qa = physAddr true (fileOf pa) ∨ qa = physAddr false (fileOf pa)) := by
      intro qa pa
      constructor
      · intro h
        rw [← h]
        have := physAddr_fileOf qa
        cases hb : qa.getLsbD 7 <;> rw [hb] at this
        · exact .inr this.symm
        · exact .inl this.symm
      · rintro (rfl | rfl) <;> simp
    by_cases h : fileOf qa = fileOf pa
    · rcases (bank qa pa).mp h with e | e <;> simp [Memory.read_write, e]
    · have h' := mt (bank qa pa).mpr h
      have hne : qa ≠ pa := fun e => h (by rw [e])
      simp only [not_or] at h'
      simp [Memory.read_write, key, h, h'.1, h'.2, hne]

/-- A read after a routed write: everything `memWrite` does to data memory. -/
theorem memRead_memWrite (s : State) (pa qa : PhysAddr) (v : Byte) :
    (s.memWrite pa v).memRead qa = if hits pa qa then v else s.memRead qa :=
  read_ramWrite s.ram pa qa v

theorem memRead_memWrite_self (s : State) (pa : PhysAddr) (v : Byte) : (s.memWrite pa v).memRead pa = v := by
  simp [memRead_memWrite, hits]

/-- The cells of the STATUS register are `pa` 0x03 and 0x83 (R16, R17). -/
theorem hits_status : ∀ qa : PhysAddr, hits 0x03#8 qa = (qa == 0x03#8 || qa == 0x83#8) := by decide

/-! ### Flags (R86) -/

/-- The flag write changes the STATUS cells only. -/
theorem memRead_setFlags (s : State) (z c dc : Option Bool) (qa : PhysAddr) :
    (s.setFlags z c dc).memRead qa =
      if qa = 0x03#8 ∨ qa = 0x83#8 then applyFlags z c dc s.status else s.memRead qa := by
  rw [State.setFlags, memRead_memWrite, hits_status]
  simp

/-- The STATUS value after the flag write. -/
theorem status_setFlags (s : State) (z c dc : Option Bool) :
    (s.setFlags z c dc).status = applyFlags z c dc s.status := by
  show (s.setFlags z c dc).memRead 0x03#8 = _
  simp [memRead_setFlags]

theorem putBit_getLsbD : ∀ (v : Byte) (i j : Fin 8) (b : Bool),
    (putBit v i b).getLsbD j = if j = i then b else v.getLsbD j := by
  decide +revert

theorem putFlag_getLsbD (v : Byte) (i j : Fin 8) (o : Option Bool) :
    (putFlag v i o).getLsbD j = if j = i then o.getD (v.getLsbD j) else v.getLsbD j := by
  cases o with
  | none => simp [putFlag]
  | some b => simp only [putFlag, putBit_getLsbD, Option.getD_some]

/-- Bit `j` of STATUS after a flag update: Z is bit 2, DC bit 1, C bit 0, the others keep their value (R21, R86). -/
theorem applyFlags_getLsbD (z c dc : Option Bool) (v : Byte) (j : Fin 8) :
    (applyFlags z c dc v).getLsbD j =
      if j = 1 then dc.getD (v.getLsbD j) else if j = 0 then c.getD (v.getLsbD j)
      else if j = 2 then z.getD (v.getLsbD j) else v.getLsbD j := by
  show (putFlag (putFlag (putFlag v ((2 : Fin 8) : Nat) z) ((0 : Fin 8) : Nat) c) ((1 : Fin 8) : Nat) dc).getLsbD j = _
  simp only [putFlag_getLsbD]
  by_cases h1 : j = 1
  · subst h1
    rfl
  · by_cases h0 : j = 0
    · subst h0
      rfl
    · simp [h0, h1]

/-! ### Destination (R82) -/

/-- The data memory after a result is written: unchanged for d = 0, the routed write for d = 1. -/
theorem memRead_writeDest (s : State) (d : Dest) (pa qa : PhysAddr) (r : Byte) :
    (s.writeDest d pa r).memRead qa = if d = .f ∧ hits pa qa then r else s.memRead qa := by
  cases d
  · simp [State.writeDest]
  · simp [State.writeDest, memRead_memWrite]

/-- All `byteOp` does: W or the file register takes the result, nothing else changes. -/
theorem byteOp_spec (f : FileAddr) (d : Dest) (r : Byte) (s : State) :
    byteOp f d r s = { s with w := (byteOp f d r s).w, ram := (byteOp f d r s).ram } ∧
      (byteOp f d r s).w = (if d = .w then r else s.w) ∧
      ∀ qa, (byteOp f d r s).memRead qa = if d = .f ∧ hits (ea f s) qa then r else s.memRead qa :=
  ⟨by cases d <;> rfl, by simp [byteOp], fun qa => memRead_writeDest s d (ea f s) qa r⟩

/-- All `byteOpFlags` does: as `byteOp`, then the flags win in the STATUS cells (R22, R81). -/
theorem byteOpFlags_spec (f : FileAddr) (d : Dest) (r : Byte) (z c dc : Option Bool) (s : State) :
    byteOpFlags f d r z c dc s =
        { s with w := (byteOpFlags f d r z c dc s).w, ram := (byteOpFlags f d r z c dc s).ram } ∧
      (byteOpFlags f d r z c dc s).w = (if d = .w then r else s.w) ∧
      ∀ qa, (byteOpFlags f d r z c dc s).memRead qa =
        if qa = 0x03#8 ∨ qa = 0x83#8 then applyFlags z c dc (if d = .f ∧ hits (ea f s) 0x03#8 then r else s.status)
        else if d = .f ∧ hits (ea f s) qa then r else s.memRead qa := by
  refine ⟨by cases d <;> rfl, by simp [byteOpFlags, byteOp], fun qa => ?_⟩
  have h3 : (byteOp f d r s).status = if d = .f ∧ hits (ea f s) 0x03#8 then r else s.status :=
    memRead_writeDest s d (ea f s) 0x03#8 r
  rw [byteOpFlags, memRead_setFlags, h3]
  congr 1
  exact memRead_writeDest s d (ea f s) qa r

/-- All `litOpFlags` does: W takes the result and the flags are written in the STATUS cells. -/
theorem litOpFlags_spec (r : Byte) (z c dc : Option Bool) (s : State) :
    litOpFlags r z c dc s = { s with w := r, ram := (litOpFlags r z c dc s).ram } ∧
      ∀ qa, (litOpFlags r z c dc s).memRead qa =
        if qa = 0x03#8 ∨ qa = 0x83#8 then applyFlags z c dc s.status else s.memRead qa :=
  ⟨rfl, fun qa => by rw [litOpFlags, memRead_setFlags]; rfl⟩

/-! ### The canonical form, kept by every write an instruction makes -/

theorem memWrite_wf {s : State} (h : Memory.wf ramUnlisted 0x100 s.ram) (pa : PhysAddr) (v : Byte) :
    Memory.wf ramUnlisted 0x100 (s.memWrite pa v).ram := ramWrite_wf h pa v

theorem setFlags_wf {s : State} (h : Memory.wf ramUnlisted 0x100 s.ram) (z c dc : Option Bool) :
    Memory.wf ramUnlisted 0x100 (s.setFlags z c dc).ram := memWrite_wf h _ _

theorem byteOp_wf {s : State} (h : Memory.wf ramUnlisted 0x100 s.ram) (f : FileAddr) (d : Dest) (r : Byte) :
    Memory.wf ramUnlisted 0x100 (byteOp f d r s).ram := by
  cases d
  · exact h
  · exact memWrite_wf h _ _

theorem byteOpFlags_wf {s : State} (h : Memory.wf ramUnlisted 0x100 s.ram) (f : FileAddr) (d : Dest) (r : Byte)
    (z c dc : Option Bool) : Memory.wf ramUnlisted 0x100 (byteOpFlags f d r z c dc s).ram :=
  setFlags_wf (byteOp_wf h f d r) z c dc

theorem litOpFlags_wf {s : State} (h : Memory.wf ramUnlisted 0x100 s.ram) (r : Byte) (z c dc : Option Bool) :
    Memory.wf ramUnlisted 0x100 (litOpFlags r z c dc s).ram := setFlags_wf (s := s.setW r) h z c dc

/-! ### Reset (R181) -/

/-- A byte of data memory after reset: the five values written last, else 0 in an SFR cell, else as before. -/
theorem read_resetRam (m : Memory) (pa : PhysAddr) :
    Memory.read ramUnlisted (resetRam m) pa.toNat =
      if hits 0x86#8 pa then 0xFF#8 else if hits 0x85#8 pa then 0x1F#8 else if hits 0x81#8 pa then 0xFF#8
      else if hits 0x03#8 pa then 0x1C#8 else if pa.toNat % 0x80 < 12 then 0x00#8
      else Memory.read ramUnlisted m pa.toNat := by
  unfold resetRam
  rw [read_ramWrite, read_ramWrite, read_ramWrite, read_ramWrite, read_clearSfrs, read_clearSfrs]
  have hlt := pa.isLt
  generalize Memory.read ramUnlisted m pa.toNat = x
  have h : (if 0x80 ≤ pa.toNat ∧ pa.toNat < 0x80 + 12 then 0x00#8
      else if 0x00 ≤ pa.toNat ∧ pa.toNat < 0x00 + 12 then 0x00#8 else x) =
        if pa.toNat % 0x80 < 12 then 0x00#8 else x := by
    by_cases q : pa.toNat % 0x80 < 12
    · rw [if_pos q]
      by_cases q2 : 0x80 ≤ pa.toNat
      · rw [if_pos ⟨q2, by omega⟩]
      · rw [if_neg (fun c => q2 c.1), if_pos ⟨Nat.zero_le _, by omega⟩]
    · rw [if_neg q, if_neg (by omega), if_neg (by omega)]
  rw [h]

/-- A byte of data memory after the host's reset. -/
theorem hostReset_memRead (s : State) (pa : PhysAddr) :
    s.hostReset.memRead pa = Memory.read ramUnlisted (resetRam s.ram) pa.toNat := by
  unfold State.memRead State.hostReset
  dsimp only

/-! ### Call stack (R30) and errors (R166) -/

theorem push_eq (st : List ProgAddr) (a : ProgAddr) :
    push st a = if st.length < 8 then .ok (a :: st) else .error .stackOverflow := rfl

@[simp] theorem pop_nil : pop [] = .error .stackUnderflow := rfl
@[simp] theorem pop_cons (a : ProgAddr) (st : List ProgAddr) : pop (a :: st) = .ok (a, st) := rfl

/-- Taking an error leaves the state as it is (R166). -/
@[simp] theorem raise_eq (e : StepError) (s : State) : raise e s = .next s := rfl

/-- All the pop into PC can do: on an empty stack the error is taken and nothing changes, else PC is the newest entry. -/
theorem popToPc_spec (load : State → State) (s : State) :
    (s.stack = [] ∧ popToPc load s = .next s) ∨
      ∃ a rest, s.stack = a :: rest ∧ popToPc load s = .next ((load (s.setStack rest)).setPc a) := by
  unfold popToPc
  cases h : s.stack with
  | nil => exact .inl ⟨rfl, rfl⟩
  | cons a rest => exact .inr ⟨a, rest, rfl, rfl⟩

/-- All CALL can do (R141, R163). -/
theorem execCall_spec (k : JumpLit) (s : State) :
    (s.stack.length < 8 ∧ execCall k s = .next ((s.setStack (s.pc :: s.stack)).setPc (target k s))) ∨
      (8 ≤ s.stack.length ∧ execCall k s = .next s) := by
  unfold execCall
  rw [push_eq]
  by_cases h : s.stack.length < 8
  · exact .inl ⟨h, by simp [h]⟩
  · exact .inr ⟨by omega, by simp [h]⟩

end Sys2Proof.Machine
end

