-- ==== Sys2Proof/Laws/Exec.lean ====
section
/-! SUPPORT. What an instruction's meaning can answer, the error it raises, and what the decoder says of a refused word. -/

namespace Sys2Proof.Machine

/-- A skip keeps everything but PC, and moves it only where its condition holds (R88). -/
theorem skipIf_eq (s : State) (c : Bool) : s.skipIf c = { s with pc := if c then s.pc + 1#13 else s.pc } := by
  cases c <;> rfl

/-- Every instruction answers a next state, from every state: no meaning faults or refuses. -/
theorem exec_next (i : Instr) (s : State) : ∃ t, exec i s = .next t := by
  cases i with
  | call k => rcases execCall_spec k s with ⟨_, e⟩ | ⟨_, e⟩ <;> exact ⟨_, e⟩
  | ret => rcases popToPc_spec id s with ⟨_, e⟩ | ⟨_, _, _, e⟩ <;> exact ⟨_, e⟩
  | retfie => rcases popToPc_spec id s with ⟨_, e⟩ | ⟨_, _, _, e⟩ <;> exact ⟨_, e⟩
  | retlw k => rcases popToPc_spec (fun t => t.setW k) s with ⟨_, e⟩ | ⟨_, _, _, e⟩ <;> exact ⟨_, e⟩
  | _ => exact ⟨_, rfl⟩

/-- An instruction that raises an error changes nothing of the state it runs in (R166). -/
theorem exec_of_error {i : Instr} {s : State} {e : StepError} (h : errorOf i s = some e) : exec i s = .next s := by
  cases i with
  | call k =>
    rcases execCall_spec k s with ⟨hl, _⟩ | ⟨_, hn⟩
    · simp [errorOf, push_eq, hl, errorIn] at h
    · exact hn
  | ret =>
    rcases popToPc_spec id s with ⟨_, hn⟩ | ⟨a, r, hs, _⟩
    · exact hn
    · simp [errorOf, hs, errorIn] at h
  | retfie =>
    rcases popToPc_spec id s with ⟨_, hn⟩ | ⟨a, r, hs, _⟩
    · exact hn
    · simp [errorOf, hs, errorIn] at h
  | retlw k =>
    rcases popToPc_spec (fun t => t.setW k) s with ⟨_, hn⟩ | ⟨a, r, hs, _⟩
    · exact hn
    · simp [errorOf, hs, errorIn] at h
  | _ => simp [errorOf] at h

end Sys2Proof.Machine

namespace Sys2Proof

/-- A word the decoder refuses is named by the error (R69, R161). -/
theorem decode_error_names_the_word {w : InsnWord} {e : DecodeError} (h : decode w = .error e) :
    e = .unrecognizedWord w := by
  unfold decode decodeFamily00 decodeFamily01 decodeFamily10 decodeFamily11 decodeMasked00 at h
  split at h
  · repeat (split at h; · simp at h)
    split at h <;> first | (split at h <;> simp_all) | simp_all
  all_goals (split at h <;> simp_all)

end Sys2Proof
end

