-- ==== Sys2Proof/Laws/PerInstr.lean ====
section
/-! SUPPORT. Facts of every instruction as syntax, one lemma per constructor. `TableRow`: the canonical word of an instruction
stands in its row of the opcode map (R65 to R68) with every ignored bit 0 (R70). -/

namespace Sys2Proof.Laws.TableRow

/-- The encoder's word matches the row's fixed bits, and its ignored bits are 0. -/
def Statement (i : Instr) : Prop :=
  encode i &&& (opcodeRow i).mask = (opcodeRow i).bits ∧ encode i &&& (opcodeRow i).ignored = 0#14

/-- A word made of a head and a field keeps the head under a mask that leaves the field out. -/
theorem head_kept {n m : Nat} (h a : BitVec n) (k : BitVec m) :
    (h ++ k) &&& (a ++ 0#m) = (h &&& a) ++ 0#m := by
  rw [BitVec.and_append]
  simp

theorem bit_row (op : BitVec 4) (b : BitIndex) (f : FileAddr) :
    (op ++ b ++ f : BitVec 14) &&& 0x3C00#14 = (op ++ 0#3 ++ 0#7 : BitVec 14) ∧
      (op ++ b ++ f : BitVec 14) &&& 0#14 = 0#14 := by
  refine ⟨(head_kept (op ++ b) (0b1111#4 ++ 0#3) f).trans (congrArg (· ++ 0#7) ((head_kept op 0b1111#4 b).trans ?_)), by simp⟩
  rw [show (0b1111#4) = BitVec.allOnes 4 from rfl, BitVec.and_allOnes]

theorem addwf (f : FileAddr) (d : Dest) : Statement (.addwf f d) := by
  cases d
  · exact ⟨head_kept (0b000111#6 ++ 0#1) (0b111111#6 ++ 0#1) f, head_kept (0b000111#6 ++ 0#1) 0#7 f⟩
  · exact ⟨head_kept (0b000111#6 ++ 1#1) (0b111111#6 ++ 0#1) f, head_kept (0b000111#6 ++ 1#1) 0#7 f⟩

theorem andwf (f : FileAddr) (d : Dest) : Statement (.andwf f d) := by
  cases d
  · exact ⟨head_kept (0b000101#6 ++ 0#1) (0b111111#6 ++ 0#1) f, head_kept (0b000101#6 ++ 0#1) 0#7 f⟩
  · exact ⟨head_kept (0b000101#6 ++ 1#1) (0b111111#6 ++ 0#1) f, head_kept (0b000101#6 ++ 1#1) 0#7 f⟩

theorem clrf (f : FileAddr) : Statement (.clrf f) := 
  ⟨head_kept 0b0000011#7 0b1111111#7 f, head_kept 0b0000011#7 0b0000000#7 f⟩

theorem clrw : Statement (.clrw) := ⟨rfl, rfl⟩

theorem comf (f : FileAddr) (d : Dest) : Statement (.comf f d) := by
  cases d
  · exact ⟨head_kept (0b001001#6 ++ 0#1) (0b111111#6 ++ 0#1) f, head_kept (0b001001#6 ++ 0#1) 0#7 f⟩
  · exact ⟨head_kept (0b001001#6 ++ 1#1) (0b111111#6 ++ 0#1) f, head_kept (0b001001#6 ++ 1#1) 0#7 f⟩

theorem decf (f : FileAddr) (d : Dest) : Statement (.decf f d) := by
  cases d
  · exact ⟨head_kept (0b000011#6 ++ 0#1) (0b111111#6 ++ 0#1) f, head_kept (0b000011#6 ++ 0#1) 0#7 f⟩
  · exact ⟨head_kept (0b000011#6 ++ 1#1) (0b111111#6 ++ 0#1) f, head_kept (0b000011#6 ++ 1#1) 0#7 f⟩

theorem decfsz (f : FileAddr) (d : Dest) : Statement (.decfsz f d) := by
  cases d
  · exact ⟨head_kept (0b001011#6 ++ 0#1) (0b111111#6 ++ 0#1) f, head_kept (0b001011#6 ++ 0#1) 0#7 f⟩
  · exact ⟨head_kept (0b001011#6 ++ 1#1) (0b111111#6 ++ 0#1) f, head_kept (0b001011#6 ++ 1#1) 0#7 f⟩

theorem incf (f : FileAddr) (d : Dest) : Statement (.incf f d) := by
  cases d
  · exact ⟨head_kept (0b001010#6 ++ 0#1) (0b111111#6 ++ 0#1) f, head_kept (0b001010#6 ++ 0#1) 0#7 f⟩
  · exact ⟨head_kept (0b001010#6 ++ 1#1) (0b111111#6 ++ 0#1) f, head_kept (0b001010#6 ++ 1#1) 0#7 f⟩

theorem incfsz (f : FileAddr) (d : Dest) : Statement (.incfsz f d) := by
  cases d
  · exact ⟨head_kept (0b001111#6 ++ 0#1) (0b111111#6 ++ 0#1) f, head_kept (0b001111#6 ++ 0#1) 0#7 f⟩
  · exact ⟨head_kept (0b001111#6 ++ 1#1) (0b111111#6 ++ 0#1) f, head_kept (0b001111#6 ++ 1#1) 0#7 f⟩

theorem iorwf (f : FileAddr) (d : Dest) : Statement (.iorwf f d) := by
  cases d
  · exact ⟨head_kept (0b000100#6 ++ 0#1) (0b111111#6 ++ 0#1) f, head_kept (0b000100#6 ++ 0#1) 0#7 f⟩
  · exact ⟨head_kept (0b000100#6 ++ 1#1) (0b111111#6 ++ 0#1) f, head_kept (0b000100#6 ++ 1#1) 0#7 f⟩

theorem movf (f : FileAddr) (d : Dest) : Statement (.movf f d) := by
  cases d
  · exact ⟨head_kept (0b001000#6 ++ 0#1) (0b111111#6 ++ 0#1) f, head_kept (0b001000#6 ++ 0#1) 0#7 f⟩
  · exact ⟨head_kept (0b001000#6 ++ 1#1) (0b111111#6 ++ 0#1) f, head_kept (0b001000#6 ++ 1#1) 0#7 f⟩

theorem movwf (f : FileAddr) : Statement (.movwf f) := 
  ⟨head_kept 0b0000001#7 0b1111111#7 f, head_kept 0b0000001#7 0b0000000#7 f⟩

theorem nop : Statement (.nop) := ⟨rfl, rfl⟩

theorem rlf (f : FileAddr) (d : Dest) : Statement (.rlf f d) := by
  cases d
  · exact ⟨head_kept (0b001101#6 ++ 0#1) (0b111111#6 ++ 0#1) f, head_kept (0b001101#6 ++ 0#1) 0#7 f⟩
  · exact ⟨head_kept (0b001101#6 ++ 1#1) (0b111111#6 ++ 0#1) f, head_kept (0b001101#6 ++ 1#1) 0#7 f⟩

theorem rrf (f : FileAddr) (d : Dest) : Statement (.rrf f d) := by
  cases d
  · exact ⟨head_kept (0b001100#6 ++ 0#1) (0b111111#6 ++ 0#1) f, head_kept (0b001100#6 ++ 0#1) 0#7 f⟩
  · exact ⟨head_kept (0b001100#6 ++ 1#1) (0b111111#6 ++ 0#1) f, head_kept (0b001100#6 ++ 1#1) 0#7 f⟩

theorem subwf (f : FileAddr) (d : Dest) : Statement (.subwf f d) := by
  cases d
  · exact ⟨head_kept (0b000010#6 ++ 0#1) (0b111111#6 ++ 0#1) f, head_kept (0b000010#6 ++ 0#1) 0#7 f⟩
  · exact ⟨head_kept (0b000010#6 ++ 1#1) (0b111111#6 ++ 0#1) f, head_kept (0b000010#6 ++ 1#1) 0#7 f⟩

theorem swapf (f : FileAddr) (d : Dest) : Statement (.swapf f d) := by
  cases d
  · exact ⟨head_kept (0b001110#6 ++ 0#1) (0b111111#6 ++ 0#1) f, head_kept (0b001110#6 ++ 0#1) 0#7 f⟩
  · exact ⟨head_kept (0b001110#6 ++ 1#1) (0b111111#6 ++ 0#1) f, head_kept (0b001110#6 ++ 1#1) 0#7 f⟩

theorem xorwf (f : FileAddr) (d : Dest) : Statement (.xorwf f d) := by
  cases d
  · exact ⟨head_kept (0b000110#6 ++ 0#1) (0b111111#6 ++ 0#1) f, head_kept (0b000110#6 ++ 0#1) 0#7 f⟩
  · exact ⟨head_kept (0b000110#6 ++ 1#1) (0b111111#6 ++ 0#1) f, head_kept (0b000110#6 ++ 1#1) 0#7 f⟩

theorem bcf (f : FileAddr) (b : BitIndex) : Statement (.bcf f b) := bit_row 0b0100#4 b f

theorem bsf (f : FileAddr) (b : BitIndex) : Statement (.bsf f b) := bit_row 0b0101#4 b f

theorem btfsc (f : FileAddr) (b : BitIndex) : Statement (.btfsc f b) := bit_row 0b0110#4 b f

theorem btfss (f : FileAddr) (b : BitIndex) : Statement (.btfss f b) := bit_row 0b0111#4 b f

theorem addlw (k : Byte) : Statement (.addlw k) := 
  ⟨head_kept 0b111110#6 0b111110#6 k, head_kept 0b111110#6 0b000001#6 k⟩

theorem andlw (k : Byte) : Statement (.andlw k) := 
  ⟨head_kept 0b111001#6 0b111111#6 k, head_kept 0b111001#6 0b000000#6 k⟩

theorem call (k : JumpLit) : Statement (.call k) := 
  ⟨head_kept 0b100#3 0b111#3 k, head_kept 0b100#3 0b000#3 k⟩

theorem clrwdt : Statement (.clrwdt) := ⟨rfl, rfl⟩

theorem goto (k : JumpLit) : Statement (.goto k) := 
  ⟨head_kept 0b101#3 0b111#3 k, head_kept 0b101#3 0b000#3 k⟩

theorem iorlw (k : Byte) : Statement (.iorlw k) := 
  ⟨head_kept 0b111000#6 0b111111#6 k, head_kept 0b111000#6 0b000000#6 k⟩

theorem movlw (k : Byte) : Statement (.movlw k) := 
  ⟨head_kept 0b110000#6 0b111100#6 k, head_kept 0b110000#6 0b000011#6 k⟩

theorem retfie : Statement (.retfie) := ⟨rfl, rfl⟩

theorem retlw (k : Byte) : Statement (.retlw k) := 
  ⟨head_kept 0b110100#6 0b111100#6 k, head_kept 0b110100#6 0b000011#6 k⟩

theorem ret : Statement (.ret) := ⟨rfl, rfl⟩

theorem sleep : Statement (.sleep) := ⟨rfl, rfl⟩

theorem sublw (k : Byte) : Statement (.sublw k) := 
  ⟨head_kept 0b111100#6 0b111110#6 k, head_kept 0b111100#6 0b000001#6 k⟩

theorem xorlw (k : Byte) : Statement (.xorlw k) := 
  ⟨head_kept 0b111010#6 0b111111#6 k, head_kept 0b111010#6 0b000000#6 k⟩

end Sys2Proof.Laws.TableRow
end

