-- ==== Sys2Proof/Tests/Slice0.lean ====
section
/-! SUPPORT. Tests of the model on fixed values. The expected values are those of spec/95_test_vectors.md (V1 to V7, S1 to
S11) or written out by hand from the rule named; then, for every statement with hypotheses, a witness that meets them. -/

namespace Sys2Proof.Tests

open Sys2Proof Sys2Proof.Machine

/-! ### Ill-formed terms are refused -/

/-- 0x4000 is no word (R60). -/
theorem test_wf_word : wordOk 0x3FFF = true ∧ wordOk 0x4000 = false := by decide

/-- An image of 3 words does not fit 2 cells; an image with 0x4000 in it is none (R182). -/
theorem test_wf_image : imageOk 2 [1, 2] = true ∧ imageOk 2 [1, 2, 3] = false ∧ imageOk 2 [0x4000] = false := by decide

/-- `PROG_SIZE` is 1 to 8192 (R6). -/
theorem test_wf_config : defaultConfig.wf = true ∧ ({ defaultConfig with progSize := 8192 } : Config).wf = true ∧
    ({ defaultConfig with progSize := 0 } : Config).wf = false ∧
    ({ defaultConfig with progSize := 8193 } : Config).wf = false := by decide

/-! ### Decoding: one word of every constructor, written bit by bit from R65 to R68 -/

theorem test_decode_addwf : decode 0b00_0111_1_0100000#14 = .ok (.addwf 0x20#7 .f) := by decide
theorem test_decode_andwf : decode 0b00_0101_0_1111111#14 = .ok (.andwf 0x7F#7 .w) := by decide
theorem test_decode_clrf : decode 0b00_0001_1_1111111#14 = .ok (.clrf 0x7F#7) := by decide
theorem test_decode_clrw : decode 0b00_0001_0_1111111#14 = .ok (.clrw) := by decide
theorem test_decode_comf : decode 0b00_1001_1_0000011#14 = .ok (.comf 0x03#7 .f) := by decide
theorem test_decode_decf : decode 0b00_0011_0_0100001#14 = .ok (.decf 0x21#7 .w) := by decide
theorem test_decode_decfsz : decode 0b00_1011_1_0100000#14 = .ok (.decfsz 0x20#7 .f) := by decide
theorem test_decode_incf : decode 0b00_1010_1_0100010#14 = .ok (.incf 0x22#7 .f) := by decide
theorem test_decode_incfsz : decode 0b00_1111_1_1111111#14 = .ok (.incfsz 0x7F#7 .f) := by decide
theorem test_decode_iorwf : decode 0b00_0100_0_0100000#14 = .ok (.iorwf 0x20#7 .w) := by decide
theorem test_decode_movf : decode 0b00_1000_0_0000100#14 = .ok (.movf 0x04#7 .w) := by decide
theorem test_decode_movwf : decode 0b00_0000_1_0000101#14 = .ok (.movwf 0x05#7) := by decide
theorem test_decode_nop : decode 0b00_0000_0_1100000#14 = .ok (.nop) := by decide
theorem test_decode_rlf : decode 0b00_1101_1_0100000#14 = .ok (.rlf 0x20#7 .f) := by decide
theorem test_decode_rrf : decode 0b00_1100_0_0100000#14 = .ok (.rrf 0x20#7 .w) := by decide
theorem test_decode_subwf : decode 0b00_0010_1_1111111#14 = .ok (.subwf 0x7F#7 .f) := by decide
theorem test_decode_swapf : decode 0b00_1110_1_0100000#14 = .ok (.swapf 0x20#7 .f) := by decide
theorem test_decode_xorwf : decode 0b00_0110_0_0100000#14 = .ok (.xorwf 0x20#7 .w) := by decide
theorem test_decode_bcf : decode 0b01_00_111_1111111#14 = .ok (.bcf 0x7F#7 7#3) := by decide
theorem test_decode_bsf : decode 0b01_01_101_0000011#14 = .ok (.bsf 0x03#7 5#3) := by decide
theorem test_decode_btfsc : decode 0b01_10_011_0100000#14 = .ok (.btfsc 0x20#7 3#3) := by decide
theorem test_decode_btfss : decode 0b01_11_010_0000011#14 = .ok (.btfss 0x03#7 2#3) := by decide
theorem test_decode_addlw : decode 0b11_1111_00100101#14 = .ok (.addlw 0x25#8) := by decide
theorem test_decode_andlw : decode 0b11_1001_00110000#14 = .ok (.andlw 0x30#8) := by decide
theorem test_decode_call : decode 0b10_0_00100100011#14 = .ok (.call 0x123#11) := by decide
theorem test_decode_clrwdt : decode 0b00_0000_0110_0100#14 = .ok (.clrwdt) := by decide
theorem test_decode_goto : decode 0b10_1_00000000110#14 = .ok (.goto 0x006#11) := by decide
theorem test_decode_iorlw : decode 0b11_1000_00001101#14 = .ok (.iorlw 0x0D#8) := by decide
theorem test_decode_movlw : decode 0b11_0011_00010001#14 = .ok (.movlw 0x11#8) := by decide
theorem test_decode_retfie : decode 0b00_0000_0000_1001#14 = .ok (.retfie) := by decide
theorem test_decode_retlw : decode 0b11_0110_01000010#14 = .ok (.retlw 0x42#8) := by decide
theorem test_decode_ret : decode 0b00_0000_0000_1000#14 = .ok (.ret) := by decide
theorem test_decode_sleep : decode 0b00_0000_0110_0011#14 = .ok (.sleep) := by decide
theorem test_decode_sublw : decode 0b11_1101_00111101#14 = .ok (.sublw 0x3D#8) := by decide
theorem test_decode_xorlw : decode 0b11_1010_00100000#14 = .ok (.xorlw 0x20#8) := by decide

/-- The first and the last word of the illegal ranges (R69, V1). -/
theorem test_decode_illegal : [0x0001#14, 0x0007#14, 0x000A#14, 0x001F#14, 0x0021#14, 0x003F#14, 0x0041#14, 0x005F#14,
    0x0061#14, 0x0062#14, 0x0065#14, 0x007F#14, 0x3B00#14, 0x3BFF#14].all
      (fun w => decide (decode w = .error (.unrecognizedWord w))) = true := by decide

/-- Both ignored bits of NOP, each alone (R70, V1). -/
theorem test_decode_nop_forms : decode 0x0000#14 = .ok .nop ∧ decode 0x0020#14 = .ok .nop ∧ decode 0x0040#14 = .ok .nop := by
  decide

/-- A number above 0x3FFF is no word; the row's bit count does not matter (R60). -/
theorem test_table_word : decodeTableWord 16 0x3E25 = some (.addlw 0x25#8) ∧ decodeTableWord 14 0x3E25 = some (.addlw 0x25#8) ∧
    decodeTableWord 16 0x7E25 = none ∧ decodeTableWord 16 0x0001 = none := by decide

/-! ### One step of every instruction (V2 to V6) -/

/-- The common start state of V2 to V6: STATUS 0x18 and PC 0x0100 unless said otherwise, the cells given, and the word placed
at PC. -/
def before (w : Byte) (cells : List (PhysAddr × Byte)) (stack : List ProgAddr) (word : Nat) : State :=
  let s := { State.reset with w := w, pc := 0x0100#13, stack := stack }
  (cells.foldl (fun t c => t.memWrite c.1 c.2) (s.memWrite 0x03#8 0x18#8)).withFetchWord 16 word

/-- What a test looks at: PC, W, STATUS and some cells. -/
structure Seen where
  pc : ProgAddr
  w : Byte
  status : Byte
  cells : List Byte
  deriving DecidableEq, Repr

/-- The state a step answers, if it answers one. -/
def after (s : State) : Option State :=
  match step s with
  | .next t => some t
  | .fault _ => none
  | .refused _ => none

/-- What a test sees after one step. -/
def see (s : State) (cells : List PhysAddr) : Option Seen :=
  (after s).map fun t => { pc := t.pc, w := t.w, status := t.memRead 0x83#8, cells := cells.map t.memRead }

/-- What a test sees of PC, W and the call stack after one step. -/
def seeStack (s : State) : Option (ProgAddr × Byte × List ProgAddr) := (after s).map fun t => (t.pc, t.w, t.stack)

/-- V2, sum 256. -/
theorem test_addwf_wraps : see (before 0x80#8 [(0x20#8, 0x80#8)] [] 0x07A0) [0x20#8] =
    some ⟨0x0101#13, 0x80#8, 0x1C#8, [0x00#8]⟩ := by decide

/-- V2, the flags win over the result. -/
theorem test_addwf_to_status : see (before 0x01#8 [] [] 0x0783) [0x03#8] =
    some ⟨0x0101#13, 0x01#8, 0x19#8, [0x19#8]⟩ := by decide

/-- V2. -/
theorem test_andwf : see (before 0xF0#8 [(0x03#8, 0x1B#8), (0x20#8, 0x0F#8)] [] 0x0520) [0x20#8] =
    some ⟨0x0101#13, 0x00#8, 0x1F#8, [0x0F#8]⟩ := by decide

/-- V2. -/
theorem test_clrf_status : see (before 0x00#8 [(0x03#8, 0xFB#8)] [] 0x0183) [0x03#8] =
    some ⟨0x0101#13, 0x00#8, 0x04#8, [0x04#8]⟩ := by decide

/-- V2, a word with its ignored bits set. -/
theorem test_clrw : see (before 0x5A#8 [(0x7F#8, 0x12#8)] [] 0x017F) [0x7F#8] =
    some ⟨0x0101#13, 0x00#8, 0x1C#8, [0x12#8]⟩ := by decide

/-- V2. -/
theorem test_comf : see (before 0x00#8 [(0x20#8, 0x13#8)] [] 0x09A0) [0x20#8] =
    some ⟨0x0101#13, 0x00#8, 0x18#8, [0xEC#8]⟩ := by decide

/-- V2. -/
theorem test_decf_wraps : see (before 0x00#8 [(0x20#8, 0x00#8)] [] 0x03A0) [0x20#8] =
    some ⟨0x0101#13, 0x00#8, 0x18#8, [0xFF#8]⟩ := by decide

/-- V2, the destination is W. -/
theorem test_decfsz_skips : see (before 0x77#8 [(0x20#8, 0x01#8)] [] 0x0B20) [0x20#8] =
    some ⟨0x0102#13, 0x00#8, 0x1C#8, [0x01#8]⟩ := by decide

/-- V2, no skip. -/
theorem test_decfsz_wraps : see (before 0x00#8 [(0x20#8, 0x00#8)] [] 0x0BA0) [0x20#8] =
    some ⟨0x0101#13, 0x00#8, 0x18#8, [0xFF#8]⟩ := by decide

/-- V2, C kept. -/
theorem test_incf_wraps : see (before 0x00#8 [(0x03#8, 0x19#8), (0x20#8, 0xFF#8)] [] 0x0AA0) [0x20#8] =
    some ⟨0x0101#13, 0x00#8, 0x1D#8, [0x00#8]⟩ := by decide

/-- V2. -/
theorem test_incfsz_skips : see (before 0x00#8 [(0x20#8, 0xFF#8)] [] 0x0FA0) [0x20#8, 0xA0#8] =
    some ⟨0x0102#13, 0x00#8, 0x1C#8, [0x00#8, 0x00#8]⟩ := by decide

/-- V2. -/
theorem test_incfsz_passes : see (before 0x00#8 [(0x20#8, 0xFE#8)] [] 0x0FA0) [0x20#8] =
    some ⟨0x0101#13, 0x00#8, 0x18#8, [0xFF#8]⟩ := by decide

/-- V2. -/
theorem test_iorwf : see (before 0x91#8 [(0x20#8, 0x13#8)] [] 0x04A0) [0x20#8] =
    some ⟨0x0101#13, 0x91#8, 0x18#8, [0x93#8]⟩ := by decide

/-- V2. -/
theorem test_movf_keeps_z : see (before 0x00#8 [(0x20#8, 0x00#8)] [] 0x08A0) [0x20#8] =
    some ⟨0x0101#13, 0x00#8, 0x18#8, [0x00#8]⟩ := by decide

/-- V2, bank by IRP, address by FSR. -/
theorem test_movwf_indirect : see (before 0xAB#8 [(0x03#8, 0x98#8), (0x04#8, 0x85#8)] [] 0x0080) [0x05#8, 0x85#8] =
    some ⟨0x0101#13, 0xAB#8, 0x98#8, [0x00#8, 0xAB#8]⟩ := by decide

/-- V2, bank by RP0. -/
theorem test_movwf_banked : see (before 0xAB#8 [(0x03#8, 0x38#8)] [] 0x0085) [0x05#8, 0x85#8] =
    some ⟨0x0101#13, 0xAB#8, 0x38#8, [0x00#8, 0xAB#8]⟩ := by decide

/-- V2, C goes in and comes out. -/
theorem test_rlf : see (before 0x00#8 [(0x03#8, 0x19#8), (0x20#8, 0x80#8)] [] 0x0DA0) [0x20#8] =
    some ⟨0x0101#13, 0x00#8, 0x19#8, [0x01#8]⟩ := by decide

/-- V2, C goes in and comes out. -/
theorem test_rrf : see (before 0x00#8 [(0x03#8, 0x19#8), (0x20#8, 0x01#8)] [] 0x0C20) [0x20#8] =
    some ⟨0x0101#13, 0x80#8, 0x19#8, [0x01#8]⟩ := by decide

/-- V2. -/
theorem test_subwf_borrows : see (before 0x02#8 [(0x20#8, 0x01#8)] [] 0x02A0) [0x20#8] =
    some ⟨0x0101#13, 0x02#8, 0x18#8, [0xFF#8]⟩ := by decide

/-- V2. -/
theorem test_subwf_digit_borrow : see (before 0x0F#8 [(0x20#8, 0x10#8)] [] 0x0220) [0x20#8] =
    some ⟨0x0101#13, 0x01#8, 0x19#8, [0x10#8]⟩ := by decide

/-- V2. -/
theorem test_swapf : see (before 0x00#8 [(0x20#8, 0xA5#8)] [] 0x0EA0) [0x20#8] =
    some ⟨0x0101#13, 0x00#8, 0x18#8, [0x5A#8]⟩ := by decide

/-- V2. -/
theorem test_xorwf : see (before 0xB5#8 [(0x20#8, 0xAF#8)] [] 0x06A0) [0x20#8] =
    some ⟨0x0101#13, 0xB5#8, 0x18#8, [0x1A#8]⟩ := by decide

/-- V4. -/
theorem test_bcf : see (before 0x00#8 [(0x03#8, 0x38#8)] [] 0x1283) [0x03#8] =
    some ⟨0x0101#13, 0x00#8, 0x18#8, [0x18#8]⟩ := by decide

/-- V4. -/
theorem test_bsf_indirect : see (before 0x00#8 [(0x04#8, 0x21#8), (0x21#8, 0x01#8)] [] 0x1780) [0x21#8, 0x00#8] =
    some ⟨0x0101#13, 0x00#8, 0x18#8, [0x81#8, 0x00#8]⟩ := by decide

/-- V4. -/
theorem test_btfsc_skips : see (before 0x00#8 [(0x20#8, 0xF7#8)] [] 0x19A0) [0x20#8] =
    some ⟨0x0102#13, 0x00#8, 0x18#8, [0xF7#8]⟩ := by decide

/-- V4. -/
theorem test_btfsc_passes : see (before 0x00#8 [(0x20#8, 0xFF#8)] [] 0x19A0) [0x20#8] =
    some ⟨0x0101#13, 0x00#8, 0x18#8, [0xFF#8]⟩ := by decide

/-- V4. -/
theorem test_btfss_skips : see (before 0x00#8 [(0x03#8, 0x1C#8)] [] 0x1D03) [] =
    some ⟨0x0102#13, 0x00#8, 0x1C#8, []⟩ := by decide

/-- V4. -/
theorem test_btfss_passes : see (before 0x00#8 [] [] 0x1D03) [] =
    some ⟨0x0101#13, 0x00#8, 0x18#8, []⟩ := by decide

/-- V6, sum 256. -/
theorem test_addlw_wraps : see (before 0xFF#8 [] [] 0x3E01) [] =
    some ⟨0x0101#13, 0x00#8, 0x1E#8, []⟩ := by decide

/-- V6, sum 255. -/
theorem test_addlw_255 : see (before 0xF0#8 [] [] 0x3E0F) [] =
    some ⟨0x0101#13, 0xFF#8, 0x19#8, []⟩ := by decide

/-- V6. -/
theorem test_andlw : see (before 0xF0#8 [(0x03#8, 0x1B#8)] [] 0x390F) [] =
    some ⟨0x0101#13, 0x00#8, 0x1F#8, []⟩ := by decide

/-- V6. -/
theorem test_iorlw : see (before 0x10#8 [] [] 0x380D) [] =
    some ⟨0x0101#13, 0x1D#8, 0x18#8, []⟩ := by decide

/-- S1, V6. -/
theorem test_movlw_keeps_z : see (before 0x00#8 [(0x03#8, 0x1C#8)] [] 0x3011) [] =
    some ⟨0x0101#13, 0x11#8, 0x1C#8, []⟩ := by decide

/-- V6. -/
theorem test_sublw_borrows : see (before 0x01#8 [] [] 0x3C00) [] =
    some ⟨0x0101#13, 0xFF#8, 0x18#8, []⟩ := by decide

/-- V6. -/
theorem test_sublw_digit_borrow : see (before 0x01#8 [] [] 0x3C10) [] =
    some ⟨0x0101#13, 0x0F#8, 0x19#8, []⟩ := by decide

/-- V6. -/
theorem test_xorlw : see (before 0x20#8 [] [] 0x3A20) [] =
    some ⟨0x0101#13, 0x00#8, 0x1C#8, []⟩ := by decide

/-- V3. -/
theorem test_nop : see (before 0x00#8 [] [] 0x0060) [] =
    some ⟨0x0101#13, 0x00#8, 0x18#8, []⟩ := by decide

/-- V3. -/
theorem test_clrwdt : see (before 0x00#8 [] [] 0x0064) [] =
    some ⟨0x0101#13, 0x00#8, 0x18#8, []⟩ := by decide

/-- V3. -/
theorem test_sleep : see (before 0x00#8 [] [] 0x0063) [] =
    some ⟨0x0101#13, 0x00#8, 0x18#8, []⟩ := by decide

/-- V3. -/
theorem test_return : seeStack (before 0x00#8 [] [0x0123#13, 0x0005#13] 0x0008) =
    some (0x0123#13, 0x00#8, [0x0005#13]) := by decide

/-- V3. -/
theorem test_return_empty : seeStack (before 0x00#8 [] [] 0x0008) =
    some (0x0101#13, 0x00#8, []) := by decide

/-- V3. -/
theorem test_retfie : seeStack (before 0x00#8 [] [0x0004#13] 0x0009) =
    some (0x0004#13, 0x00#8, []) := by decide

/-- V6. -/
theorem test_retlw : seeStack (before 0x00#8 [] [0x0011#13] 0x3442) =
    some (0x0011#13, 0x42#8, []) := by decide

/-- V6, W not loaded. -/
theorem test_retlw_empty : seeStack (before 0x07#8 [] [] 0x3442) =
    some (0x0101#13, 0x07#8, []) := by decide

/-- V5. -/
theorem test_call : seeStack (before 0x00#8 [(0x0A#8, 0x08#8)] [0x0001#13] 0x2123) =
    some (0x0923#13, 0x00#8, [0x0101#13, 0x0001#13]) := by decide

/-- V5. -/
theorem test_call_full : seeStack (before 0x00#8 [] (List.replicate 8 0x0001#13) 0x2123) =
    some (0x0101#13, 0x00#8, (List.replicate 8 0x0001#13)) := by decide

/-- V5. -/
theorem test_goto : seeStack (before 0x00#8 [(0x0A#8, 0x18#8)] [] 0x2806) =
    some (0x1806#13, 0x00#8, []) := by decide

/-- V5, PCLATH bits 4:3 are 0. -/
theorem test_goto_low_page : seeStack (before 0x00#8 [(0x0A#8, 0xE7#8)] [] 0x2FFF) =
    some (0x07FF#13, 0x00#8, []) := by decide

/-- Under `carry_out` the sum 256 sets C (V6). -/
theorem test_addlw_carry_out : see { before 0xFF#8 [] [] 0x3E01 with cfg := { defaultConfig with carry := .carryOut } } [] =
    some ⟨0x0101#13, 0x00#8, 0x1F#8, []⟩ := by decide

/-- A skip from the last address wraps (V4). -/
theorem test_skip_wraps : (after (({ State.reset with pc := 0x1FFF#13 } : State).withFetchWord 16 0x1820)).map State.pc =
    some 0x0001#13 := by decide

/-! ### Errors and the host's operations (V7) -/

/-- An illegal word: PC and IR move, the step reports it (V7). -/
theorem test_illegal_word :
    let s := before 0x07#8 [] [] 0x3B42
    after s = some { s with ir := 0x3B42#14, pc := 0x0101#13 } ∧ stepReport s = .error (.decodeError 0x3B42#14) := by decide

/-- Overflow and underflow are reported (V3, V5). -/
theorem test_stack_reports : stepReport (before 0x00#8 [] (List.replicate 8 0x0001#13) 0x2123) = .error .stackOverflow ∧
    stepReport (before 0x00#8 [] [] 0x0009) = .error .stackUnderflow := by decide

/-- A step before the first reset (S10). -/
theorem test_not_ready :
    let s := { State.reset with ready := false }
    after s = some s ∧ stepReport s = .error .notReady := by decide

/-- Reset in the middle of a run (V7). -/
theorem test_reset :
    let s := ((({ State.reset with w := 0x55#8, pc := 0x0123#13, stack := [0x0007#13] } : State).memWrite 0x20#8 0x99#8).memWrite
      0x03#8 0x3B#8).hostReset
    s.w = 0x00#8 ∧ s.pc = 0x0000#13 ∧ s.stack = [] ∧ s.status = 0x1C#8 ∧ s.memRead 0x20#8 = 0x99#8 := by decide

/-- A second load leaves the rest unset; 0x4000 is no word (V7). -/
theorem test_load :
    (((State.reset.load [1, 2, 3]).bind fun s => s.load [0x3011]).map State.prog).toOption = some [(0, 0x3011#14)] ∧
    ((State.reset.load [0x4000]).map State.prog).toOption = none := by decide

/-- After reset the first step fetches at address 0 (S1). -/
theorem test_first_step : ((State.reset.load [0x3011]).toOption.bind after).map (fun t => (t.w, t.pc)) = some (0x11#8, 0x0001#13) := by
  decide

/-! ### Witnesses: for each statement with hypotheses, values that meet all of them

Named witness_<statement>, with a suffix where a statement has several clauses. -/

/-- A ready state with a word at PC. -/
abbrev at100 (stack : List ProgAddr) (word : Nat) : State := before 0x07#8 [] stack word

theorem witness_DecodedOperandsAreTheWordsFields : decode 0x3FFF#14 = .ok (.addlw 0xFF#8) := by decide

theorem witness_CallStackPushAndPop_full : (List.replicate 8 0x0001#13).length ≤ 8 ∧ (List.replicate 8 0x0001#13).length = 8 := by
  decide

theorem witness_CallStackPushAndPop_room : (List.replicate 7 0x0001#13).length ≤ 8 ∧ (List.replicate 7 0x0001#13).length ≠ 8 := by
  decide

theorem witness_StepRunsTheDecodedInstruction :
    let s := at100 [] 0x2123
    s.ready = true ∧
      decode (if s.pc.toNat < s.cfg.progSize then (cellFind s.prog s.pc.toNat).getD 0#14 else 0#14) = .ok (.call 0x123#11) := by
  decide

theorem witness_FetchOutsideTheImageRunsNop_outOfRange :
    let s := { State.reset with pc := 0x0400#13 }
    s.ready = true ∧ s.cfg.progSize ≤ s.pc.toNat := by decide

theorem witness_FetchOutsideTheImageRunsNop_unset :
    let s := { State.reset with pc := 0x03FF#13 }
    s.ready = true ∧ cellFind s.prog s.pc.toNat = none := by decide

theorem witness_StepBeforeResetChangesNothing : ({ State.reset with ready := false } : State).ready = false := by decide

/-- The illegal word 0x0062 matches no row (R69). -/
theorem no_row_0062 (i : Instr) : 0x0062#14 &&& (opcodeRow i).mask ≠ (opcodeRow i).bits := by
  cases i <;> simp [opcodeRow]

theorem witness_IllegalWordEndsTheStepAdvanced : (at100 [] 0x0062).ready = true ∧
    ∀ i, (at100 [] 0x0062).progRead (at100 [] 0x0062).pc &&& (opcodeRow i).mask ≠ (opcodeRow i).bits := by
  have hw : (at100 [] 0x0062).progRead (at100 [] 0x0062).pc = 0x0062#14 := by decide
  exact ⟨by decide, fun i => hw ▸ no_row_0062 i⟩

theorem witness_CallOnFullStackIsNotMade :
    let s := at100 (List.replicate 8 0x0001#13) 0x2123
    s.ready = true ∧ decode (s.progRead s.pc) = .ok (.call 0x123#11) ∧ s.stack.length = 8 := by decide

theorem witness_ReturnOnEmptyStackIsNotMade_return :
    let s := at100 [] 0x0008
    s.ready = true ∧ decode (s.progRead s.pc) = .ok .ret ∧ s.stack = [] := by decide

theorem witness_ReturnOnEmptyStackIsNotMade_retfie :
    let s := at100 [] 0x0009
    s.ready = true ∧ decode (s.progRead s.pc) = .ok .retfie ∧ s.stack = [] := by decide

theorem witness_ReturnOnEmptyStackIsNotMade_retlw :
    let s := at100 [] 0x3442
    s.ready = true ∧ decode (s.progRead s.pc) = .ok (.retlw 0x42#8) ∧ s.stack = [] := by decide

theorem witness_AnErrorStepIsANopStep :
    let s := at100 [] 0x0001
    s.ready = true ∧ stepError s = some (.decodeError 0x0001#14) := by decide

theorem witness_EveryStepAnswersAState_ok : stepError (at100 [] 0x0008) = some .stackUnderflow ∧
    stepError (at100 [0x0005#13] 0x0008) = none := by decide

theorem witness_StepErrorsAreExactlyTheListed : stepError ({ State.reset with ready := false } : State) = some .notReady ∧
    stepError (at100 [] 0x3BFF) = some (.decodeError 0x3BFF#14) ∧
    stepError (at100 (List.replicate 8 0x0001#13) 0x2000) = some .stackOverflow ∧
    stepError (at100 (List.replicate 7 0x0001#13) 0x2000) = none ∧
    stepError (at100 (List.replicate 9 0x0001#13) 0x2000) = some .stackOverflow ∧
    stepError (at100 [] 0x3401) = some .stackUnderflow := by decide

theorem witness_NextPcFollowsTheListedWays_skip :
    let s := ({ State.reset with pc := 0x1FFF#13 } : State).withFetchWord 16 0x1820
    s.ready = true ∧ decode (s.progRead s.pc) = .ok (.btfsc 0x20#7 0#3) ∧ pcAfter (.btfsc 0x20#7 0#3) s = 1 := by decide

theorem witness_NextPcFollowsTheListedWays_advance :
    let s := ({ State.reset with pc := 0x1FFF#13 } : State).withFetchWord 16 0x3011
    s.ready = true ∧ decode (s.progRead s.pc) = .ok (.movlw 0x11#8) ∧ pcAfter (.movlw 0x11#8) s = 0 := by decide

theorem witness_NextPcFollowsTheListedWays_goto :
    let s := before 0x00#8 [(0x0A#8, 0x18#8)] [] 0x2806
    s.ready = true ∧ decode (s.progRead s.pc) = .ok (.goto 0x006#11) ∧ pcAfter (.goto 0x006#11) s = 0x1806 := by decide

/-- Seven entries: the last depth with room. -/
theorem witness_NextPcFollowsTheListedWays_call :
    let s := at100 (List.replicate 7 0x0001#13) 0x2123
    s.ready = true ∧ decode (s.progRead s.pc) = .ok (.call 0x123#11) ∧ pcAfter (.call 0x123#11) s = 0x0123 := by decide

theorem witness_NextPcFollowsTheListedWays_callFull :
    let s := at100 (List.replicate 8 0x0001#13) 0x2123
    s.ready = true ∧ decode (s.progRead s.pc) = .ok (.call 0x123#11) ∧ pcAfter (.call 0x123#11) s = 0x0101 := by decide

/-- Nine entries, which no run reaches (log 17). -/
theorem witness_NextPcFollowsTheListedWays_callOverfull :
    let s := at100 (List.replicate 9 0x0001#13) 0x2123
    s.ready = true ∧ decode (s.progRead s.pc) = .ok (.call 0x123#11) ∧ pcAfter (.call 0x123#11) s = 0x0101 := by decide

theorem witness_NextPcFollowsTheListedWays_return :
    let s := at100 [0x0123#13, 0x0005#13] 0x0008
    s.ready = true ∧ decode (s.progRead s.pc) = .ok (.ret) ∧ pcAfter (.ret) s = 0x0123 := by decide

theorem witness_NextPcFollowsTheListedWays_retlw :
    let s := at100 [0x0011#13] 0x3442
    s.ready = true ∧ decode (s.progRead s.pc) = .ok (.retlw 0x42#8) ∧ pcAfter (.retlw 0x42#8) s = 0x0011 := by decide

theorem witness_NextPcFollowsTheListedWays_returnEmpty :
    let s := at100 [] 0x0009
    s.ready = true ∧ decode (s.progRead s.pc) = .ok (.retfie) ∧ pcAfter (.retfie) s = 0x0101 := by decide

theorem witness_SkipPassesExactlyOneWord_taken :
    let s := before 0x00#8 [(0x20#8, 0x01#8)] [] 0x0BA0
    s.ready = true ∧ decode (s.progRead s.pc) = .ok (.decfsz 0x20#7 .f) ∧ skipTaken (.decfsz 0x20#7 .f) s = some true := by decide

theorem witness_SkipPassesExactlyOneWord_not :
    let s := before 0x00#8 [(0x20#8, 0xFE#8)] [] 0x0FA0
    s.ready = true ∧ decode (s.progRead s.pc) = .ok (.incfsz 0x20#7 .f) ∧ skipTaken (.incfsz 0x20#7 .f) s = some false := by
  decide

theorem witness_SkipPassesExactlyOneWord_btfss :
    let s := before 0x00#8 [(0x03#8, 0x1C#8)] [] 0x1D03
    s.ready = true ∧ decode (s.progRead s.pc) = .ok (.btfss 0x03#7 2#3) ∧ skipTaken (.btfss 0x03#7 2#3) s = some true := by decide

theorem witness_SkipPassesExactlyOneWord_btfsc :
    let s := before 0x00#8 [(0x20#8, 0xFF#8)] [] 0x19A0
    s.ready = true ∧ decode (s.progRead s.pc) = .ok (.btfsc 0x20#7 3#3) ∧ skipTaken (.btfsc 0x20#7 3#3) s = some false := by decide

theorem witness_StepDependsOnlyOnTheFetchedWord :
    let s := before 0x00#8 [(0x03#8, 0x1C#8)] [] 0x1D03
    let p := progPlace s.prog 0x0101 0x0001#14
    ({ s with prog := p } : State).progRead s.pc = s.progRead s.pc ∧ p ≠ s.prog ∧ (after s).isSome = true := by decide

theorem witness_OnlyCallAndReturnsTouchTheStack :
    (match exec (.call 0x123#11) State.reset with
      | .next t => decide (t.stack ≠ State.reset.stack)
      | .fault _ => false
      | .refused _ => false) = true := by decide

theorem witness_NoStepWritesProgramOrEeprom :
    let s := before 0xAB#8 [] [] 0x0080
    s.ready = true ∧ (after s).isSome = true := by decide

/-- A state in the middle of a run: cells of three kinds away from their reset values, an image and a call in progress. -/
def running : State :=
  { before 0x42#8 [(0x05#8, 0x11#8), (0x85#8, 0x0F#8), (0xB0#8, 0x42#8), (0x04#8, 0x30#8)] [0x0007#13] 0x0080 with
    ir := 0x3442#14 }

set_option maxRecDepth 8000 in
theorem witness_BanksAgreeAtEveryPoint : BanksAgree running ∧ (after running).isSome = true := by decide

theorem witness_MachineInvariantKeptByStep : Inv running ∧ (after running).isSome = true :=
  ⟨⟨by decide, witness_BanksAgreeAtEveryPoint.1, by decide⟩, witness_BanksAgreeAtEveryPoint.2⟩

theorem witness_MachineInvariantKeptByTheHost : Inv running ∧ ((running.load [0x3011, 0x2806]).toOption).isSome = true :=
  ⟨witness_MachineInvariantKeptByStep.1, by decide⟩

theorem witness_PowerOnState_eeprom : (0 : Nat) < defaultConfig.eepromSize ∧ 63 < defaultConfig.eepromSize := by decide

theorem witness_LoadFillsProgramMemoryOrFails_fits :
    let s := { State.reset with cfg := { defaultConfig with progSize := 2 } }
    [0x0000, 0x3FFF].length ≤ s.cfg.progSize ∧ ∀ w ∈ [0x0000, 0x3FFF], w ≤ 0x3FFF := by decide

theorem witness_LoadFillsProgramMemoryOrFails_oversized :
    let s := { State.reset with cfg := { defaultConfig with progSize := 2 } }
    ¬ ([0, 0, 0].length ≤ s.cfg.progSize ∧ ∀ w ∈ [0, 0, 0], w ≤ 0x3FFF) := by decide

theorem witness_LoadFillsProgramMemoryOrFails_notAWord :
    ¬ ([0x4000].length ≤ State.reset.cfg.progSize ∧ ∀ w ∈ [0x4000], w ≤ 0x3FFF) := by decide

theorem witness_BootRunsTheImageFromAddressZero : imageOk State.reset.cfg.progSize (0x3011 :: [0x2806]) = true ∧
    decode (BitVec.ofNat 14 0x3011) = .ok (.movlw 0x11#8) := by decide

/-- The boundary values of the observers (R53, R162): the last cell and the first missing one; one EEPROM cell is not 0. -/
theorem witness_ObserversAreBoundsChecked :
    let s := { State.reset with eeprom := [(63, 0x5A#8)] }
    (s.observeRam 1 127).toOption = some 0x00#8 ∧ (s.observeRam 1 128).toOption = none ∧ (s.observeRam 2 0).toOption = none ∧
    (s.observeProg 1023).toOption = some none ∧ (s.observeProg 1024).toOption = none ∧
    (s.observeEeprom 0).toOption = some 0x00#8 ∧ (s.observeEeprom 63).toOption = some 0x5A#8 ∧ (s.observeEeprom 64).toOption = none := by decide

theorem witness_PlacedWordIsTheNextFetched : decodeTableWord 16 0x3442 = some (.retlw 0x42#8) := by decide

theorem witness_ReturnsPopIntoPc : ({ State.reset with stack := [0x0123#13, 0x0005#13] } : State).stack = 0x0123#13 :: [0x0005#13] := by
  decide

theorem witness_CallPushesAndJumps : ({ State.reset with stack := List.replicate 7 0x0001#13 } : State).stack.length < 8 := by
  decide

/-- CALL 0x123 at 0x0010, RETURN at 0x0123 (S6). -/
def callThenReturn : State := { State.reset with pc := 0x0010#13, prog := [(0x0010, 0x2123#14), (0x0123, 0x0008#14)] }

theorem witness_CallThenReturnComesBack :
    let s := callThenReturn
    s.ready = true ∧ s.stack.length < 8 ∧ decode (s.progRead s.pc) = .ok (.call 0x123#11) ∧
      decode (s.progRead (target 0x123#11 s)) = .ok .ret := by decide

theorem witness_GotoToItselfIsTheEndOfARun :
    let s := ({ State.reset with pc := 0x0006#13 } : State).withFetchWord 16 0x2806
    s.ready = true ∧ endOfRun s := ⟨by decide, 0x006#11, by decide⟩

end Sys2Proof.Tests
end

section
/-! Proofs of the statements of spec/10_state.md: the call stack of R30, what one instruction and one step can do to the
state, the machine's invariant, and the ways PC changes (R14). -/

namespace Sys2Proof.Machine

/-! ### The call stack (R30) -/

/-- Settles O9: `push` by whether the stack has room, `pop` and `top` by the shape of the stack. -/
theorem callStackPushAndPop : Obligations.CallStackPushAndPop := by
  intro st a hle
  refine ⟨fun hfull => ?_, fun hroom => ?_, pop_nil, pop_cons a st, rfl, rfl⟩
  · rw [push_eq, if_neg (by omega)]
  · rw [push_eq, if_pos (by omega)]

/-! ### Writes of W, PC and data memory -/

/-- The second state comes from the first by writes of W, PC and data-memory cells alone, in any order and number. -/
inductive PlainWrites (s : State) : State → Prop where
  /-- Nothing is written. -/
  | refl : PlainWrites s s
  /-- A write of W (R11). -/
  | setW {t : State} (h : PlainWrites s t) (v : Byte) : PlainWrites s (t.setW v)
  /-- A write of PC (R14). -/
  | setPc {t : State} (h : PlainWrites s t) (v : ProgAddr) : PlainWrites s (t.setPc v)
  /-- A routed write of data memory (R43). -/
  | memWrite {t : State} (h : PlainWrites s t) (pa : PhysAddr) (v : Byte) : PlainWrites s (t.memWrite pa v)

theorem PlainWrites.skipIf {s t : State} (h : PlainWrites s t) (c : Bool) : PlainWrites s (t.skipIf c) := by
  cases c
  · exact h
  · exact h.setPc _

theorem byteOp_plainWrites (f : FileAddr) (d : Dest) (r : Byte) (s : State) : PlainWrites s (byteOp f d r s) := by
  cases d
  · exact .setW .refl r
  · exact .memWrite .refl _ r

theorem byteOpFlags_plainWrites (f : FileAddr) (d : Dest) (r : Byte) (z c dc : Option Bool) (s : State) :
    PlainWrites s (byteOpFlags f d r z c dc s) :=
  (byteOp_plainWrites f d r s).memWrite _ _

theorem litOpFlags_plainWrites (r : Byte) (z c dc : Option Bool) (s : State) :
    PlainWrites s (litOpFlags r z c dc s) :=
  .memWrite (.setW .refl r) _ _

/-- Such writes leave IR, the call stack, the EEPROM, program memory, readiness and parameters alone. -/
theorem PlainWrites.keepsOthers {s t : State} (h : PlainWrites s t) : KeepsOthers s t := by
  induction h with
  | refl => exact ⟨rfl, rfl, rfl, rfl, rfl, rfl⟩
  | setW _ _ ih => exact ih
  | setPc _ _ ih => exact ih
  | memWrite _ _ _ ih => exact ih

/-! ### What an instruction can do -/

/-- All a pop into PC can write, where `load` makes plain writes: plain writes, after the newest entry left the stack if
there was one. -/
theorem popToPc_cases {load : State → State} (hload : ∀ u, PlainWrites u (load u)) {s t : State}
    (h : popToPc load s = .next t) :
    PlainWrites s t ∨ ∃ a rest, s.stack = a :: rest ∧ PlainWrites (s.setStack rest) t := by
  obtain ⟨_, e⟩ | ⟨a, rest, hs, e⟩ := popToPc_spec load s
  · cases e.symm.trans h
    exact .inl .refl
  · cases e.symm.trans h
    exact .inr ⟨a, rest, hs, (hload _).setPc a⟩

/-- All an instruction can write: W, PC and data memory; a CALL with room also pushes, a return with an entry also pops. -/
theorem exec_cases {i : Instr} {s t : State} (h : exec i s = .next t) :
    PlainWrites s t ∨
      (∃ k, i = .call k ∧ s.stack.length < 8 ∧ t = (s.setStack (s.pc :: s.stack)).setPc (target k s)) ∨
      ((i = .ret ∨ i = .retfie ∨ ∃ k, i = .retlw k) ∧
        ∃ a rest, s.stack = a :: rest ∧ PlainWrites (s.setStack rest) t) := by
  cases i with
  | call k =>
    obtain ⟨hroom, e⟩ | ⟨_, e⟩ := execCall_spec k s
    · cases e.symm.trans h
      exact .inr (.inl ⟨k, rfl, hroom, rfl⟩)
    · cases e.symm.trans h
      exact .inl .refl
  | ret => exact (popToPc_cases (fun _ => .refl) h).imp_right fun hpop => .inr ⟨.inl rfl, hpop⟩
  | retfie => exact (popToPc_cases (fun _ => .refl) h).imp_right fun hpop => .inr ⟨.inr (.inl rfl), hpop⟩
  | retlw k =>
    exact (popToPc_cases (fun _ => .setW .refl k) h).imp_right fun hpop => .inr ⟨.inr (.inr ⟨k, rfl⟩), hpop⟩
  | addwf | andwf | clrf | comf | decf | incf | iorwf | rlf | rrf | subwf | xorwf =>
    cases h
    exact .inl (byteOpFlags_plainWrites ..)
  | decfsz | incfsz =>
    cases h
    exact .inl ((byteOpFlags_plainWrites ..).skipIf _)
  | movf | movwf | swapf | bcf | bsf =>
    cases h
    exact .inl (byteOp_plainWrites ..)
  | clrw | addlw | andlw | iorlw | sublw | xorlw =>
    cases h
    exact .inl (litOpFlags_plainWrites ..)
  | btfsc | btfss =>
    cases h
    exact .inl (PlainWrites.refl.skipIf _)
  | movlw k =>
    cases h
    exact .inl (.setW .refl k)
  | goto k =>
    cases h
    exact .inl (.setPc .refl _)
  | nop | clrwdt | sleep =>
    cases h
    exact .inl .refl

/-- Settles O22: an instruction's plain writes do not reach the stack, and only CALL and the returns do more. -/
theorem onlyCallAndReturnsTouchTheStack : Obligations.OnlyCallAndReturnsTouchTheStack := by
  intro i s t h hne
  obtain hw | ⟨k, hi, _⟩ | ⟨hi, _⟩ := exec_cases h
  · obtain ⟨_, hstack, _⟩ := hw.keepsOthers
    exact absurd hstack hne
  · exact .inl ⟨k, hi⟩
  · exact .inr hi

/-- No instruction writes IR, the EEPROM, program memory, readiness or the parameters. -/
theorem exec_keepsOthers {i : Instr} {s t : State} (h : exec i s = .next t) : KeepsOthers (s.setStack t.stack) t := by
  obtain hw | ⟨k, _, _, rfl⟩ | ⟨_, a, rest, _, hw⟩ := exec_cases h
  · obtain ⟨hir, _, hothers⟩ := hw.keepsOthers
    exact ⟨hir, rfl, hothers⟩
  · exact ⟨rfl, rfl, rfl, rfl, rfl, rfl⟩
  · obtain ⟨hir, _, hothers⟩ := hw.keepsOthers
    exact ⟨hir, rfl, hothers⟩

/-! ### What a step can do -/

/-- The step of a ready state whose word at PC decodes (R80). -/
theorem step_of_decode {s : State} {i : Instr} (hr : s.ready = true) (hd : decode (s.progRead s.pc) = .ok i) :
    step s = exec i s.fetch := by
  simp [step, hr, hd]

/-- All a step can do: nothing before the first reset (R165), the fetch alone at an illegal word (R161), else the fetch and
the instruction (R80). -/
theorem step_cases {s t : State} (h : step s = .next t) :
    (s.ready = false ∧ t = s) ∨
      (s.ready = true ∧ (∃ w, decode (s.progRead s.pc) = .error (.unrecognizedWord w)) ∧ t = s.fetch) ∨
      (s.ready = true ∧ ∃ i, decode (s.progRead s.pc) = .ok i ∧ exec i s.fetch = .next t) := by
  cases hr : s.ready with
  | false =>
    simp only [step, hr, raise_eq] at h
    cases h
    exact .inl ⟨rfl, rfl⟩
  | true =>
    cases hd : decode (s.progRead s.pc) with
    | ok i => exact .inr (.inr ⟨rfl, i, rfl, (step_of_decode hr hd).symm.trans h⟩)
    | error e =>
      obtain ⟨w⟩ := e
      simp only [step, hr, fetch_ir, hd, raise_eq, if_true] at h
      cases h
      exact .inr (.inl ⟨rfl, ⟨w, rfl⟩, rfl⟩)

/-- Settles O23: neither the fetch nor the instruction writes them, and the fetch alone writes IR. -/
theorem noStepWritesProgramOrEeprom : Obligations.NoStepWritesProgramOrEeprom := by
  intro s t h
  obtain ⟨hr, rfl⟩ | ⟨_, _, rfl⟩ | ⟨_, i, _, hexec⟩ := step_cases h
  · exact ⟨rfl, rfl, rfl, rfl, fun hready => by simp [hr] at hready⟩
  · exact ⟨rfl, rfl, rfl, rfl, fun _ => rfl⟩
  · obtain ⟨hir, _, heeprom, hprog, hready, hcfg⟩ := exec_keepsOthers hexec
    exact ⟨hprog, heeprom, hready, hcfg, fun _ => hir⟩

/-! ### Banks in agreement (R44) -/

theorem sharedAddr_eq_not_bankPrivate (a : FileAddr) : sharedAddr a = !bankPrivate a.toNat := by
  rw [sharedAddr_iff]
  rfl

@[simp] theorem fileOf_bank0 : ∀ a : FileAddr, fileOf (BitVec.ofNat 8 a.toNat) = a := by decide

@[simp] theorem fileOf_bank1 : ∀ a : FileAddr, fileOf (BitVec.ofNat 8 (0x80 + a.toNat)) = a := by decide

/-- Whether a write reaches a cell that both banks share depends on the file address alone, not on the bank. -/
theorem hits_of_sharedAddr {pa qa : PhysAddr} (h : sharedAddr (fileOf qa) = true) :
    hits pa qa = (fileOf qa == fileOf pa) := by
  by_cases hf : fileOf qa = fileOf pa
  · simp [hits, ← hf, h]
  · have hne : qa ≠ pa := fun e => hf (e ▸ rfl)
    rw [hits, beq_false_of_ne hne, beq_false_of_ne hf, Bool.and_false, Bool.or_false]

/-- A routed write keeps the banks in agreement. -/
theorem memWrite_banksAgree {s : State} (h : BanksAgree s) (pa : PhysAddr) (v : Byte) :
    BanksAgree (s.memWrite pa v) := by
  intro a ha
  have hshared : sharedAddr a = true := by rw [sharedAddr_eq_not_bankPrivate, ha]; rfl
  have h0 : hits pa (BitVec.ofNat 8 a.toNat) = (a == fileOf pa) := by
    rw [hits_of_sharedAddr (by rwa [fileOf_bank0]), fileOf_bank0]
  have h1 : hits pa (BitVec.ofNat 8 (0x80 + a.toNat)) = (a == fileOf pa) := by
    rw [hits_of_sharedAddr (by rwa [fileOf_bank1]), fileOf_bank1]
  rw [memRead_memWrite, memRead_memWrite, h0, h1, h a ha]

/-- The reset values of the cells that both banks share do not depend on the bank (R16). -/
theorem ramUnlisted_banks : ∀ a : FileAddr, bankPrivate a.toNat = false →
    ramUnlisted (BitVec.ofNat 8 a.toNat).toNat = ramUnlisted (BitVec.ofNat 8 (0x80 + a.toNat)).toNat := by
  decide

/-! ### The machine's invariant -/

/-- Settles O26: at reset no cell is listed, so every read is a reset value and the stack is empty. -/
theorem machineInvariantAtReset : Obligations.MachineInvariantAtReset :=
  ⟨reset_memories_wf, ramUnlisted_banks, Nat.zero_le 8⟩

/-- A routed write keeps the invariant. -/
theorem memWrite_inv {s : State} (h : Inv s) (pa : PhysAddr) (v : Byte) : Inv (s.memWrite pa v) := by
  obtain ⟨⟨hram, hcanonical⟩, hbanks, hstack⟩ := h
  exact ⟨⟨memWrite_wf hram pa v, hcanonical⟩, memWrite_banksAgree hbanks pa v, hstack⟩

/-- A stack of at most 8 entries keeps the invariant. -/
theorem setStack_inv {s : State} (h : Inv s) {st : List ProgAddr} (hst : st.length ≤ 8) : Inv (s.setStack st) := by
  obtain ⟨hcanonical, hbanks, _⟩ := h
  exact ⟨hcanonical, hbanks, hst⟩

theorem PlainWrites.inv {s t : State} (h : PlainWrites s t) (hs : Inv s) : Inv t := by
  induction h with
  | refl => exact hs
  | setW _ _ ih => exact ih
  | setPc _ _ ih => exact ih
  | memWrite _ pa v ih => exact memWrite_inv ih pa v

/-- Every instruction keeps the invariant: a CALL pushes below 8 entries only, a return leaves fewer. -/
theorem exec_inv {i : Instr} {s t : State} (hs : Inv s) (h : exec i s = .next t) : Inv t := by
  obtain hw | ⟨k, _, hroom, rfl⟩ | ⟨_, a, rest, hstack, hw⟩ := exec_cases h
  · exact hw.inv hs
  · have hpushed : Inv (s.setStack (s.pc :: s.stack)) := setStack_inv hs hroom
    exact hpushed
  · have ⟨_, _, (hbound : s.stack.length ≤ 8)⟩ := hs
    rw [hstack] at hbound
    exact hw.inv (setStack_inv hs (Nat.le_of_succ_le hbound))

/-- Settles O25: the fetch writes only IR and PC, and the instruction keeps the invariant. -/
theorem machineInvariantKeptByStep : Obligations.MachineInvariantKeptByStep := by
  intro s t hs h
  have hfetch : Inv s.fetch := hs
  obtain ⟨_, rfl⟩ | ⟨_, _, rfl⟩ | ⟨_, i, _, hexec⟩ := step_cases h
  · exact hs
  · exact hfetch
  · exact exec_inv hfetch hexec

/-! ### The ways PC changes (R14) -/

@[simp] theorem byteOp_pc (f : FileAddr) (d : Dest) (r : Byte) (s : State) : (byteOp f d r s).pc = s.pc :=
  writeDest_pc ..

@[simp] theorem byteOpFlags_pc (f : FileAddr) (d : Dest) (r : Byte) (z c dc : Option Bool) (s : State) :
    (byteOpFlags f d r z c dc s).pc = s.pc :=
  byteOp_pc ..

@[simp] theorem litOpFlags_pc (r : Byte) (z c dc : Option Bool) (s : State) : (litOpFlags r z c dc s).pc = s.pc := rfl

/-- The advance of PC wraps at 8192 (R14, decision D16). -/
theorem advance_toNat (a : ProgAddr) : (a + 1#13).toNat = (a.toNat + 1) % 8192 :=
  BitVec.toNat_add a 1#13

/-- The jump target read as a number (R140). -/
theorem target_toNat (k : JumpLit) (s : State) : (target k s).toNat = jumpTarget s k := by
  have hk : k.toNat < 2 ^ 11 := k.isLt
  simp only [target, jumpTarget, BitVec.toNat_append, BitVec.extractLsb'_toNat, Nat.shiftRight_eq_div_pow]
  rw [← Nat.shiftLeft_add_eq_or_of_lt hk, Nat.shiftLeft_eq]

/-- GOTO, CALL and the three returns: the instructions that may load PC (R14). -/
def redirectsPc : Instr → Bool
  | .goto _ | .call _ | .ret | .retfie | .retlw _ => true
  | _ => false

theorem bitClear_eq (v : Byte) (b : BitIndex) : (!v.getLsbD b.toNat) = decide (v.toNat / 2 ^ b.toNat % 2 = 0) := by
  rw [BitVec.getLsbD, Nat.testBit_eq_decide_div_mod_eq, ← decide_not]
  exact decide_eq_decide.mpr (by omega)

theorem bitSet_eq (v : Byte) (b : BitIndex) : v.getLsbD b.toNat = decide (v.toNat / 2 ^ b.toNat % 2 = 1) :=
  Nat.testBit_eq_decide_div_mod_eq

theorem decremented_eq_zero (v : Byte) : (v - 1#8 == 0#8) = decide (v.toNat = 1) := by
  rw [beq_eq_decide]
  exact decide_eq_decide.mpr (by bv_omega)

theorem incremented_eq_zero (v : Byte) : (v + 1#8 == 0#8) = decide (v.toNat = 255) := by
  rw [beq_eq_decide]
  exact decide_eq_decide.mpr (by bv_omega)

/-- An instruction that does not redirect leaves PC, but for the extra word of a skip that is taken (R88). -/
theorem exec_pc_of_not_redirects {i : Instr} (hi : redirectsPc i = false) (s : State) :
    ∃ t, exec i s = .next t ∧ t.pc = if skipTaken i s = some true then s.pc + 1#13 else s.pc := by
  cases i with
  | goto | call | ret | retfie | retlw => cases hi
  | btfsc f b => exact ⟨_, rfl, by simp [skipTaken, bitClear_eq, operand]⟩
  | btfss f b => exact ⟨_, rfl, by simp [skipTaken, bitSet_eq, operand]⟩
  | decfsz f d => exact ⟨_, rfl, by simp [skipTaken, decremented_eq_zero, operand]⟩
  | incfsz f d => exact ⟨_, rfl, by simp [skipTaken, incremented_eq_zero, operand]⟩
  | _ => exact ⟨_, rfl, by simp [skipTaken]⟩

theorem pcAfter_of_not_redirects {i : Instr} (hi : redirectsPc i = false) (s : State) :
    pcAfter i s = (s.pc.toNat + if skipTaken i s = some true then 2 else 1) % 8192 := by
  cases i with
  | goto | call | ret | retfie | retlw => cases hi
  | _ => simp only [pcAfter]; split <;> rfl

theorem skipTaken_fetch (i : Instr) (s : State) : skipTaken i s.fetch = skipTaken i s := by
  cases i <;> rfl

/-- The pop into PC after the fetch: the newest entry, or the advanced PC on an empty stack (R123, R164). -/
theorem popToPc_fetch_pc (load : State → State) (s : State) :
    ∃ t, popToPc load s.fetch = .next t ∧ t.pc.toNat = pcAfter .ret s := by
  obtain ⟨hs, e⟩ | ⟨a, rest, hs, e⟩ := popToPc_spec load s.fetch
  · exact ⟨_, e, by simp [pcAfter, show s.stack = [] from hs]⟩
  · exact ⟨_, e, by simp [pcAfter, show s.stack = a :: rest from hs]⟩

/-- PC after an instruction that runs on the fetched state. -/
theorem exec_fetch_pc (i : Instr) (s : State) : ∃ t, exec i s.fetch = .next t ∧ t.pc.toNat = pcAfter i s := by
  cases hi : redirectsPc i with
  | false =>
    obtain ⟨t, e, hpc⟩ := exec_pc_of_not_redirects hi s.fetch
    refine ⟨t, e, ?_⟩
    rw [hpc, pcAfter_of_not_redirects hi, skipTaken_fetch, fetch_pc]
    split
    · rw [advance_toNat, advance_toNat, Nat.mod_add_mod]
    · exact advance_toNat s.pc
  | true =>
    cases i with
    | goto k => exact ⟨_, rfl, target_toNat k s⟩
    | call k =>
      obtain ⟨hroom, e⟩ | ⟨hfull, e⟩ := execCall_spec k s.fetch
      · exact ⟨_, e, (target_toNat k s).trans (if_pos hroom).symm⟩
      · exact ⟨_, e, (advance_toNat s.pc).trans (if_neg (Nat.not_lt.mpr hfull)).symm⟩
    | ret => exact popToPc_fetch_pc id s
    | retfie => exact popToPc_fetch_pc id s
    | retlw k => exact popToPc_fetch_pc (fun t => t.setW k) s
    | _ => cases hi

/-- Settles O19: the step is the instruction on the fetched state, whose PC `exec_fetch_pc` gives. -/
theorem nextPcFollowsTheListedWays : Obligations.NextPcFollowsTheListedWays := by
  intro s i hr hd
  rw [step_of_decode hr hd]
  exact exec_fetch_pc i s

end Sys2Proof.Machine
end

section
/-! Proofs of the statements of spec/20_memory.md: the effective address (R41), the routed write (R43), the banks' agreement
(R44), the invariant under the host's operations, fetch (R48, R52) and the observers (R53). -/

namespace Sys2Proof.Machine

/-! ### The effective address (R41) -/

/-- The low 7 bits read as a number. -/
theorem fileOf_toNat (pa : PhysAddr) : (fileOf pa).toNat = pa.toNat % 128 := by
  rw [fileOf, BitVec.extractLsb'_toNat, Nat.shiftRight_zero]

/-- A physical address whose bank is a bit of a byte, as a number. -/
theorem physAddr_bit_toNat (v : Byte) (b : BitIndex) (a : FileAddr) :
    (physAddr (v.getLsbD b.toNat) a).toNat = 128 * (v.toNat / 2 ^ b.toNat % 2) + a.toNat := by
  rw [physAddr_toNat, bitSet_eq]
  obtain h | h := Nat.mod_two_eq_zero_or_one (v.toNat / 2 ^ b.toNat) <;> simp [h]

/-- Settles O6: `ea` by whether the operand is 0; the bank is bit 7 or bit 5 of STATUS. -/
theorem effectiveAddressResolution : Obligations.EffectiveAddressResolution := by
  intro f s
  dsimp only
  have hzero : f.toNat = 0 ↔ f = 0#7 := BitVec.toNat_inj (y := 0#7)
  by_cases hf : f = 0#7
  · rw [ea, if_pos hf, if_pos (hzero.mpr hf), ← fileOf_toNat]
    exact physAddr_bit_toNat s.status 7#3 (fileOf s.fsr)
  · rw [ea, if_neg hf, if_neg (mt hzero.mp hf)]
    exact physAddr_bit_toNat s.status 5#3 f

/-! ### The routed write (R43) -/

/-- The cells the model's write changes are those the routing reaches. -/
theorem hits_eq_reaches (pa qa : PhysAddr) : hits pa qa = reaches pa qa := by
  have hfile : (fileOf qa == fileOf pa) = decide (qa.toNat % 0x80 = pa.toNat % 0x80) := by
    rw [beq_eq_decide, decide_eq_decide, ← BitVec.toNat_inj, fileOf_toNat, fileOf_toNat]
  rw [hits, reaches, hfile, sharedAddr_eq_not_bankPrivate, fileOf_toNat, beq_eq_decide]

/-- A read after a routed write, in the spec's terms. -/
theorem memRead_memWrite_eq_stored (s : State) (pa qa : PhysAddr) (v : Byte) :
    (s.memWrite pa v).memRead qa = stored s.memRead pa v qa := by
  rw [memRead_memWrite, hits_eq_reaches, stored]

/-- Settles O7: the write is plain, and every cell reads as routed. -/
theorem memWriteRoutesToItsCells : Obligations.MemWriteRoutesToItsCells := fun s pa v =>
  ⟨rfl, rfl, (PlainWrites.refl.memWrite pa v).keepsOthers, fun qa => memRead_memWrite_eq_stored s pa qa v⟩

/-! ### Banks in agreement (R44) -/

theorem bank0_toNat (a : FileAddr) : (BitVec.ofNat 8 a.toNat).toNat = a.toNat := by
  rw [BitVec.toNat_ofNat]
  omega

theorem bank1_toNat (a : FileAddr) : (BitVec.ofNat 8 (0x80 + a.toNat)).toNat = 0x80 + a.toNat := by
  rw [BitVec.toNat_ofNat]
  omega

/-- At an address both banks share, a write reaches both cells or neither. -/
theorem hits_banks {a : FileAddr} (ha : bankPrivate a.toNat = false) (pa : PhysAddr) :
    hits pa (BitVec.ofNat 8 a.toNat) = hits pa (BitVec.ofNat 8 (0x80 + a.toNat)) := by
  have hshared : sharedAddr a = true := by rw [sharedAddr_eq_not_bankPrivate, ha, Bool.not_false]
  rw [hits_of_sharedAddr (by rwa [fileOf_bank0]), hits_of_sharedAddr (by rwa [fileOf_bank1]), fileOf_bank0,
    fileOf_bank1]

/-- At power-on a cell's byte does not depend on its bank (R180). -/
theorem powerOn_banksAgree (cfg : Config) (gpr : FileAddr → Byte) (ee : Nat → Byte) :
    BanksAgree (State.powerOn cfg gpr ee) := by
  intro a _
  have hfile : BitVec.ofNat 7 (0x80 + a.toNat) = BitVec.ofNat 7 a.toNat := by
    rw [← BitVec.toNat_inj, BitVec.toNat_ofNat, BitVec.toNat_ofNat, Nat.add_mod_left]
  rw [powerOn_read, powerOn_read, bank0_toNat, bank1_toNat, powerOnByte, powerOnByte, hfile, Nat.add_mod_left]

theorem PlainWrites.banksAgree {s t : State} (h : PlainWrites s t) (hs : BanksAgree s) : BanksAgree t := by
  induction h with
  | refl => exact hs
  | setW _ _ ih => exact ih
  | setPc _ _ ih => exact ih
  | memWrite _ pa v ih => exact memWrite_banksAgree ih pa v

/-- No instruction breaks the agreement: pushing and popping do not reach data memory. -/
theorem exec_banksAgree {i : Instr} {s t : State} (hs : BanksAgree s) (h : exec i s = .next t) : BanksAgree t := by
  obtain hw | ⟨_, _, _, rfl⟩ | ⟨_, _, rest, _, hw⟩ := exec_cases h
  · exact hw.banksAgree hs
  · exact hs
  · have hpopped : BanksAgree (s.setStack rest) := hs
    exact hw.banksAgree hpopped

theorem step_banksAgree {s t : State} (hs : BanksAgree s) (h : step s = .next t) : BanksAgree t := by
  have hfetch : BanksAgree s.fetch := hs
  obtain ⟨_, rfl⟩ | ⟨_, _, rfl⟩ | ⟨_, _, _, hexec⟩ := step_cases h
  · exact hs
  · exact hfetch
  · exact exec_banksAgree hfetch hexec

/-- Each write of the reset reaches both cells of a shared address or neither (R181). -/
theorem hostReset_banksAgree {s : State} (hs : BanksAgree s) : BanksAgree s.hostReset := by
  intro a ha
  have hcells : Memory.read ramUnlisted s.ram (BitVec.ofNat 8 a.toNat).toNat =
      Memory.read ramUnlisted s.ram (BitVec.ofNat 8 (0x80 + a.toNat)).toNat := hs a ha
  rw [hostReset_memRead, hostReset_memRead, read_resetRam, read_resetRam, hcells]
  simp only [hits_banks ha, bank0_toNat, bank1_toNat, Nat.add_mod_left]

/-- A load writes program memory only (R182). -/
theorem load_banksAgree {s t : State} {words : List Nat} (hs : BanksAgree s) (h : s.load words = .ok t) :
    BanksAgree t := by
  obtain ⟨_, _, rfl⟩ := load_ok h
  exact hs

/-- Settles O24, one lemma for each way the machine's state comes about. -/
theorem banksAgreeAtEveryPoint : Obligations.BanksAgreeAtEveryPoint :=
  ⟨powerOn_banksAgree, fun _ _ => step_banksAgree, fun _ => hostReset_banksAgree, fun _ _ _ => load_banksAgree⟩

/-! ### The machine's invariant under the host's operations -/

theorem powerOn_inv (cfg : Config) (gpr : FileAddr → Byte) (ee : Nat → Byte) : Inv (State.powerOn cfg gpr ee) :=
  ⟨powerOn_memories_wf cfg gpr ee, powerOn_banksAgree cfg gpr ee, Nat.zero_le 8⟩

theorem hostReset_inv {s : State} (h : Inv s) : Inv s.hostReset := by
  obtain ⟨⟨hram, hcanonical⟩, hbanks, _⟩ := h
  have hmemories : MemoriesCanonical s.hostReset := by
    simp only [MemoriesCanonical, hostReset_ram, hostReset_eeprom, hostReset_prog, hostReset_cfg]
    exact ⟨resetRam_wf hram, hcanonical⟩
  have hstack : StackBounded s.hostReset := by simp [StackBounded]
  exact ⟨hmemories, hostReset_banksAgree hbanks, hstack⟩

/-- An image that is loaded fits, so its cells lie below `PROG_SIZE`. -/
theorem load_inv {s t : State} {words : List Nat} (hs : Inv s) (h : s.load words = .ok t) : Inv t := by
  obtain ⟨hfits, _, rfl⟩ := load_ok h
  obtain ⟨⟨hram, heeprom, _⟩, hbanks, hstack⟩ := hs
  obtain ⟨⟨hrising, hbound⟩, _⟩ := imageCells_wf words 0
  have hprog : ProgMemory.wf s.cfg.progSize (imageCells 0 words) :=
    ⟨hrising, fun c hc => (hbound c hc).trans_le (by omega)⟩
  exact ⟨⟨hram, heeprom, hprog⟩, hbanks, hstack⟩

/-- Settles O27. -/
theorem machineInvariantKeptByTheHost : Obligations.MachineInvariantKeptByTheHost :=
  ⟨powerOn_inv, fun _ => hostReset_inv, fun _ _ _ => load_inv⟩

/-! ### The step's ways and its report -/

/-- The step before the first reset (R165). -/
theorem step_of_not_ready {s : State} (hr : s.ready = false) : step s = .next s := by
  simp [step, hr]

/-- The step of a ready state whose word at PC matches no row (R161). -/
theorem step_of_refused {s : State} {w : InsnWord} (hr : s.ready = true)
    (hd : decode (s.progRead s.pc) = .error (.unrecognizedWord w)) : step s = .next s.fetch := by
  simp [step, hr, hd]

/-- The error of a step whose word at PC decodes is the instruction's. -/
theorem stepError_of_decode {s : State} {i : Instr} (hr : s.ready = true) (hd : decode (s.progRead s.pc) = .ok i) :
    stepError s = errorOf i s.fetch := by
  simp [stepError, hr, hd]

/-- A step without error reports the PC of the state it answers (R80 step 5). -/
theorem stepReport_of_no_error {s t : State} (h : step s = .next t) (he : stepError s = none) :
    stepReport s = .ok t.pc := by
  simp [stepReport, he, nextPc, h]

/-! ### Fetch (R48) -/

/-- Out of range, or at an unset cell, the word read is 0. -/
theorem progRead_eq_zero {s : State} {a : ProgAddr}
    (h : s.cfg.progSize ≤ a.toNat ∨ cellFind s.prog a.toNat = none) : s.progRead a = 0x0000#14 := by
  rw [State.progRead]
  split
  case isTrue hin => rw [h.resolve_left (Nat.not_le.mpr hin), Option.getD_none]
  case isFalse => rfl

theorem decode_zero : decode 0x0000#14 = .ok .nop := by decide

/-- Settles O11: the word read is 0, so the step is NOP on the fetched state. -/
theorem fetchOutsideTheImageRunsNop : Obligations.FetchOutsideTheImageRunsNop := by
  intro s hr hout
  have hzero : s.progRead s.pc = 0#14 := progRead_eq_zero hout
  have hd : decode (s.progRead s.pc) = .ok .nop := by rw [hzero, decode_zero]
  have hfetch : s.fetch = { s with ir := 0#14, pc := s.pc + 1#13 } := by rw [← hzero]; rfl
  have hstep : step s = .next s.fetch := step_of_decode hr hd
  exact ⟨hfetch ▸ hstep, stepReport_of_no_error hstep (stepError_of_decode hr hd)⟩

/-! ### The word placed for the next fetch (log 9) -/

/-- All a table row's word that decodes says (R60, R69). -/
theorem decodeTableWord_some {nbits w : Nat} {i : Instr} (h : decodeTableWord nbits w = some i) :
    wordOk w = true ∧ decode (BitVec.ofNat 14 w) = .ok i := by
  unfold decodeTableWord at h
  cases hw : wordOk w with
  | false => simp [hw] at h
  | true =>
    cases hd : decode (BitVec.ofNat 14 w) with
    | error e => simp [hw, hd] at h
    | ok j =>
      simp only [hw, hd, if_true, Option.some.injEq] at h
      exact ⟨rfl, congrArg _ h⟩

theorem withFetchWord_pc (s : State) (nbits w : Nat) : (s.withFetchWord nbits w).pc = s.pc := by
  rw [State.withFetchWord, placeFetchWord]
  split <;> rfl

theorem withFetchWord_ready (s : State) (nbits : Nat) {w : Nat} (hw : wordOk w = true) :
    (s.withFetchWord nbits w).ready = true := by
  rw [State.withFetchWord, placeFetchWord, if_pos hw]

/-- The placed word is what the next fetch reads. -/
theorem withFetchWord_progRead (s : State) (nbits : Nat) {w : Nat} (hw : wordOk w = true) :
    (s.withFetchWord nbits w).progRead s.pc = BitVec.ofNat 14 w := by
  rw [State.withFetchWord, placeFetchWord, if_pos hw, State.progRead, cellFind_progPlace, if_pos rfl, Option.getD_some]
  exact if_pos (Nat.le_max_right ..)

/-- Settles O34: the engine is ready and the word read at PC is the placed one. -/
theorem placedWordIsTheNextFetched : Obligations.PlacedWordIsTheNextFetched := by
  intro s nbits w i h
  obtain ⟨hw, hd⟩ := decodeTableWord_some h
  have hpc := withFetchWord_pc s nbits w
  have hread : (s.withFetchWord nbits w).progRead (s.withFetchWord nbits w).pc = BitVec.ofNat 14 w := by
    rw [hpc, withFetchWord_progRead s nbits hw]
  rw [step_of_decode (withFetchWord_ready s nbits hw) (hread ▸ hd), ← hread, ← hpc]
  rfl

/-! ### A step does not see the rest of program memory (R49, R52) -/

/-- The state with another program memory. -/
def State.setProg (s : State) (p : ProgMemory) : State := { s with prog := p }

theorem skipIf_setProg (s : State) (p : ProgMemory) (c : Bool) : (s.setProg p).skipIf c = (s.skipIf c).setProg p := by
  cases c <;> rfl

theorem byteOp_setProg (f : FileAddr) (d : Dest) (r : Byte) (s : State) (p : ProgMemory) :
    byteOp f d r (s.setProg p) = (byteOp f d r s).setProg p := by
  cases d <;> rfl

theorem byteOpFlags_setProg (f : FileAddr) (d : Dest) (r : Byte) (z c dc : Option Bool) (s : State) (p : ProgMemory) :
    byteOpFlags f d r z c dc (s.setProg p) = (byteOpFlags f d r z c dc s).setProg p := by
  rw [byteOpFlags, byteOp_setProg]
  rfl

/-- The pop into PC, where `load` does not see program memory. -/
theorem popToPc_setProg {load : State → State} {p : ProgMemory}
    (hload : ∀ u, load (u.setProg p) = (load u).setProg p) (s : State) : ∃ t, popToPc load s = .next t ∧ popToPc load (s.setProg p) = .next (t.setProg p) := by
  have hstack : (s.setProg p).stack = s.stack := rfl
  unfold popToPc
  rw [hstack]
  cases s.stack with
  | nil => exact ⟨s, rfl, rfl⟩
  | cons a rest =>
    exact ⟨_, rfl, congrArg (fun u : State => Host.Outcome.next (u.setPc a)) (hload (s.setStack rest))⟩

theorem execCall_setProg (k : JumpLit) (s : State) (p : ProgMemory) :
    ∃ t, execCall k s = .next t ∧ execCall k (s.setProg p) = .next (t.setProg p) := by
  have hpush : push (s.setProg p).stack (s.setProg p).pc = push s.stack s.pc := rfl
  unfold execCall
  rw [hpush]
  cases push s.stack s.pc with
  | ok st => exact ⟨_, rfl, rfl⟩
  | error e => exact ⟨s, rfl, rfl⟩

/-- No instruction reads program memory. -/
theorem exec_setProg (i : Instr) (s : State) (p : ProgMemory) :
    ∃ t, exec i s = .next t ∧ exec i (s.setProg p) = .next (t.setProg p) := by
  cases i with
  | call k => exact execCall_setProg k s p
  | ret => exact popToPc_setProg (load := id) (fun _ => rfl) s
  | retfie => exact popToPc_setProg (load := id) (fun _ => rfl) s
  | retlw k => exact popToPc_setProg (load := fun t => t.setW k) (fun _ => rfl) s
  | addwf | andwf | clrf | comf | decf | incf | iorwf | rlf | rrf | subwf | xorwf =>
    exact ⟨_, rfl, congrArg _ (byteOpFlags_setProg ..)⟩
  | decfsz | incfsz =>
    exact ⟨_, rfl, congrArg _ ((congrArg (State.skipIf · _) (byteOpFlags_setProg ..)).trans (skipIf_setProg ..))⟩
  | movf | movwf | swapf | bcf | bsf => exact ⟨_, rfl, congrArg _ (byteOp_setProg ..)⟩
  | btfsc | btfss => exact ⟨_, rfl, congrArg _ (skipIf_setProg ..)⟩
  | clrw | addlw | andlw | iorlw | sublw | xorlw | movlw | goto | nop | clrwdt | sleep => exact ⟨_, rfl, rfl⟩

/-- The fetch reads the word at PC alone. -/
theorem fetch_setProg {s : State} {p : ProgMemory} (h : (s.setProg p).progRead s.pc = s.progRead s.pc) :
    (s.setProg p).fetch = s.fetch.setProg p := by
  have hfetch : (s.setProg p).fetch = ((s.setProg p).setIr ((s.setProg p).progRead s.pc)).incPc := rfl
  rw [hfetch, h]
  rfl

/-- The step from a state with another program memory that holds the same word at PC. -/
theorem step_setProg {s t : State} {p : ProgMemory} (hword : (s.setProg p).progRead s.pc = s.progRead s.pc)
    (h : step s = .next t) : step (s.setProg p) = .next (t.setProg p) := by
  obtain ⟨hr, rfl⟩ | ⟨hr, ⟨w, hd⟩, rfl⟩ | ⟨hr, i, hd, hexec⟩ := step_cases h
  · exact step_of_not_ready (s := t.setProg p) hr
  · rw [← fetch_setProg hword]
    exact step_of_refused (s := s.setProg p) hr (hword ▸ hd)
  · obtain ⟨u, hu, hp⟩ := exec_setProg i s.fetch p
    cases hu.symm.trans hexec
    rw [← fetch_setProg hword] at hp
    exact (step_of_decode (s := s.setProg p) hr (hword ▸ hd)).trans hp

/-- Settles O21: the fetch reads the same word, and what runs on it reads no program memory. -/
theorem stepDependsOnlyOnTheFetchedWord : Obligations.StepDependsOnlyOnTheFetchedWord := fun _ _ _ => step_setProg

/-! ### The observers (R53, R162) -/

/-- Settles O33: each observer by whether the cell lies in its array. -/
theorem observersAreBoundsChecked : Obligations.ObserversAreBoundsChecked := by
  intro s bank a
  have hram : bank ≤ 1 ∧ a ≤ 127 ↔ bank < 2 ∧ a < 0x80 := by omega
  refine ⟨fun h => ?_, fun h => if_neg (mt hram.mpr h), fun h => if_pos h, fun h => if_neg (Nat.not_lt.mpr h),
    fun h => if_pos h, fun h => if_neg (Nat.not_lt.mpr h)⟩
  rw [State.observeRam, if_pos (hram.mp h), Nat.mul_comm]

end Sys2Proof.Machine
end

section
/-! Proofs of the statements of spec/30_encoding.md: the operand fields (R63), what the decoder does with a word of each row
of the opcode map (R64 to R68), and which words no row has (R69). -/

namespace Sys2Proof

/-! ### Words of a row -/

/-- The word matches the row of the instruction: "exactly when `(w & mask) == match`" (R65). -/
def MatchesRow (w : InsnWord) (i : Instr) : Prop := w &&& (opcodeRow i).mask = (opcodeRow i).bits

/-- The instruction of the same mnemonic with its operands taken from the word's fields (R63). -/
def Instr.withFields (w : InsnWord) : Instr → Instr
  | .addwf _ _ => .addwf (fieldF w) (fieldD w)
  | .andwf _ _ => .andwf (fieldF w) (fieldD w)
  | .clrf _ => .clrf (fieldF w)
  | .clrw => .clrw
  | .comf _ _ => .comf (fieldF w) (fieldD w)
  | .decf _ _ => .decf (fieldF w) (fieldD w)
  | .decfsz _ _ => .decfsz (fieldF w) (fieldD w)
  | .incf _ _ => .incf (fieldF w) (fieldD w)
  | .incfsz _ _ => .incfsz (fieldF w) (fieldD w)
  | .iorwf _ _ => .iorwf (fieldF w) (fieldD w)
  | .movf _ _ => .movf (fieldF w) (fieldD w)
  | .movwf _ => .movwf (fieldF w)
  | .nop => .nop
  | .rlf _ _ => .rlf (fieldF w) (fieldD w)
  | .rrf _ _ => .rrf (fieldF w) (fieldD w)
  | .subwf _ _ => .subwf (fieldF w) (fieldD w)
  | .swapf _ _ => .swapf (fieldF w) (fieldD w)
  | .xorwf _ _ => .xorwf (fieldF w) (fieldD w)
  | .bcf _ _ => .bcf (fieldF w) (fieldB w)
  | .bsf _ _ => .bsf (fieldF w) (fieldB w)
  | .btfsc _ _ => .btfsc (fieldF w) (fieldB w)
  | .btfss _ _ => .btfss (fieldF w) (fieldB w)
  | .addlw _ => .addlw (fieldK8 w)
  | .andlw _ => .andlw (fieldK8 w)
  | .call _ => .call (fieldK11 w)
  | .clrwdt => .clrwdt
  | .goto _ => .goto (fieldK11 w)
  | .iorlw _ => .iorlw (fieldK8 w)
  | .movlw _ => .movlw (fieldK8 w)
  | .retfie => .retfie
  | .retlw _ => .retlw (fieldK8 w)
  | .ret => .ret
  | .sleep => .sleep
  | .sublw _ => .sublw (fieldK8 w)
  | .xorlw _ => .xorlw (fieldK8 w)

/-- The row of an instruction does not depend on its operands. -/
theorem opcodeRow_withFields (w : InsnWord) (i : Instr) : opcodeRow (i.withFields w) = opcodeRow i := by
  cases i <;> rfl

/-- The per-constructor facts about canonical words, as one fact about every instruction. -/
theorem tableRow (i : Instr) : Laws.TableRow.Statement i := by
  open Laws.TableRow in
  cases i with
  | addwf f d => exact addwf f d
  | andwf f d => exact andwf f d
  | clrf f => exact clrf f
  | clrw => exact clrw
  | comf f d => exact comf f d
  | decf f d => exact decf f d
  | decfsz f d => exact decfsz f d
  | incf f d => exact incf f d
  | incfsz f d => exact incfsz f d
  | iorwf f d => exact iorwf f d
  | movf f d => exact movf f d
  | movwf f => exact movwf f
  | nop => exact nop
  | rlf f d => exact rlf f d
  | rrf f d => exact rrf f d
  | subwf f d => exact subwf f d
  | swapf f d => exact swapf f d
  | xorwf f d => exact xorwf f d
  | bcf f b => exact bcf f b
  | bsf f b => exact bsf f b
  | btfsc f b => exact btfsc f b
  | btfss f b => exact btfss f b
  | addlw k => exact addlw k
  | andlw k => exact andlw k
  | call k => exact call k
  | clrwdt => exact clrwdt
  | goto k => exact goto k
  | iorlw k => exact iorlw k
  | movlw k => exact movlw k
  | retfie => exact retfie
  | retlw k => exact retlw k
  | ret => exact ret
  | sleep => exact sleep
  | sublw k => exact sublw k
  | xorlw k => exact xorlw k

/-- The canonical word of an instruction matches the instruction's row. -/
theorem matches_encode (i : Instr) : MatchesRow (encode i) i := (tableRow i).left

/-! ### The operand fields (R63) -/

@[simp] theorem fieldF_append (h : BitVec 7) (f : FileAddr) : fieldF (h ++ f) = f := BitVec.extractLsb'_append_eq_right

@[simp] theorem fieldD_append (op : BitVec 6) (d : Dest) (f : FileAddr) : fieldD (op ++ d.bit ++ f) = d := by
  rw [fieldD, BitVec.getLsbD_append, if_neg (Nat.lt_irrefl 7), BitVec.getLsbD_append, if_pos Nat.one_pos]
  cases d <;> rfl

@[simp] theorem fieldB_append (op : BitVec 4) (b : BitIndex) (f : FileAddr) : fieldB (op ++ b ++ f) = b := by
  rw [fieldB, BitVec.extractLsb'_append_eq_of_le (Nat.le_refl 7), Nat.sub_self, BitVec.extractLsb'_append_eq_right]

@[simp] theorem fieldK8_append (op : BitVec 6) (k : Byte) : fieldK8 (op ++ k) = k := BitVec.extractLsb'_append_eq_right

@[simp] theorem fieldK11_append (op : BitVec 3) (k : JumpLit) : fieldK11 (op ++ k) = k :=
  BitVec.extractLsb'_append_eq_right

/-- The encoder puts every operand where its field is. -/
theorem withFields_encode (i : Instr) : i.withFields (encode i) = i := by
  cases i <;> simp [Instr.withFields, encode]

theorem bit_fieldD_append_fieldF (w : InsnWord) : (fieldD w).bit ++ fieldF w = w.extractLsb' 0 8 := by
  have hbit : (fieldD w).bit = w.extractLsb' 7 1 := by
    ext k hk
    obtain rfl : k = 0 := Nat.lt_one_iff.mp hk
    rw [BitVec.getElem_extractLsb', fieldD]
    cases w.getLsbD 7 <;> simp [Dest.bit]
  rw [hbit]
  exact BitVec.extractLsb'_append_extractLsb'_eq_extractLsb' rfl

theorem fieldB_append_fieldF (w : InsnWord) : fieldB w ++ fieldF w = w.extractLsb' 0 10 :=
  BitVec.extractLsb'_append_extractLsb'_eq_extractLsb' rfl

/-- An opcode before the low bits of a word, as the opcode's pattern joined with those bits. -/
theorem append_extractLsb'_low {n m : Nat} (op : BitVec n) (w : BitVec (n + m)) :
    op ++ w.extractLsb' 0 m = (op ++ 0#m) ||| (w &&& (0#n ++ BitVec.allOnes m)) := by
  conv_rhs => rw [← BitVec.extractLsb'_append_extractLsb' (x := w), BitVec.and_append, BitVec.or_append]
  simp

theorem append_fieldD_append_fieldF (op : BitVec 6) (w : InsnWord) :
    op ++ (fieldD w).bit ++ fieldF w = (op ++ 0#8) ||| (w &&& 0x00FF#14) := by
  rw [BitVec.append_assoc, bit_fieldD_append_fieldF]
  exact append_extractLsb'_low (m := 8) op w

theorem append_fieldB_append_fieldF (op : BitVec 4) (w : InsnWord) :
    op ++ fieldB w ++ fieldF w = (op ++ 0#10) ||| (w &&& 0x03FF#14) := by
  rw [BitVec.append_assoc, fieldB_append_fieldF]
  exact append_extractLsb'_low (m := 10) op w

/-- The operands' bits are those the row neither fixes nor ignores. -/
theorem encode_withFields (w : InsnWord) (i : Instr) : encode (i.withFields w) =
    (opcodeRow i).bits ||| (w &&& ~~~((opcodeRow i).mask ||| (opcodeRow i).ignored)) := by
  cases i <;> dsimp only [Instr.withFields, encode, opcodeRow]
  case addwf | andwf | comf | decf | decfsz | incf | incfsz | iorwf | movf | rlf | rrf | subwf | swapf | xorwf =>
    exact append_fieldD_append_fieldF _ w
  case bcf | bsf | btfsc | btfss => exact append_fieldB_append_fieldF _ w
  case clrf | movwf => exact append_extractLsb'_low (n := 7) (m := 7) _ w
  case addlw | andlw | iorlw | movlw | retlw | sublw | xorlw => exact append_extractLsb'_low (n := 6) (m := 8) _ w
  case call | goto => exact append_extractLsb'_low (n := 3) (m := 11) _ w
  case nop | clrw | clrwdt | retfie | ret | sleep => simp

/-- A row ignores no bit it fixes, so the bits it fixes and the operands' bits are all but the ignored ones. -/
theorem mask_or_operands (i : Instr) :
    (opcodeRow i).mask ||| ~~~((opcodeRow i).mask ||| (opcodeRow i).ignored) = ~~~(opcodeRow i).ignored := by
  cases i <;> dsimp only [opcodeRow] <;> decide

/-- In a word of the row, what the row fixes and the operands together are all but the ignored bits. -/
theorem encode_withFields_of_matches {w : InsnWord} {i : Instr} (h : MatchesRow w i) :
    encode (i.withFields w) = w &&& ~~~(opcodeRow i).ignored := by
  rw [encode_withFields, ← h, ← BitVec.and_or_distrib_left, mask_or_operands]

/-! ### What the decoder does with a word of a row (R64) -/

/-- Bits a mask keeps are fixed by the masked value. -/
theorem extractLsb'_of_mask {w mask bits : InsnWord} (h : w &&& mask = bits) (start len : Nat)
    (hm : mask.extractLsb' start len = BitVec.allOnes len) : w.extractLsb' start len = bits.extractLsb' start len := by
  rw [← h, BitVec.extractLsb'_and, hm, BitVec.and_allOnes]

theorem getLsbD_of_mask {w mask bits : InsnWord} (h : w &&& mask = bits) (k : Nat) (hm : mask.getLsbD k = true) :
    w.getLsbD k = bits.getLsbD k := by
  rw [← h, BitVec.getLsbD_and, hm, Bool.and_true]

/-- Two masked values of one word agree where both masks keep the bits. -/
theorem masked_values_agree {w mask bits mask' bits' : InsnWord} (h : w &&& mask = bits) (h' : w &&& mask' = bits') :
    bits &&& mask' = bits' &&& mask := by
  rw [← h, ← h', BitVec.and_assoc, BitVec.and_assoc, BitVec.and_comm mask]

theorem decode_family00 {w : InsnWord} (h : w.extractLsb' 12 2 = 0#2) : decode w = decodeFamily00 w := by
  simp [decode, h]

theorem decode_family01 {w : InsnWord} (h : w.extractLsb' 12 2 = 1#2) : decode w = decodeFamily01 w := by
  simp [decode, h]

theorem decode_family10 {w : InsnWord} (h : w.extractLsb' 12 2 = 2#2) : decode w = decodeFamily10 w := by
  simp [decode, h]

theorem decode_family11 {w : InsnWord} (h : w.extractLsb' 12 2 = 3#2) : decode w = decodeFamily11 w := by
  simp [decode, h]

/-- The words of family 00 that are matched in full (R64 step 1). -/
def exactWords : List InsnWord := [0x0064#14, 0x0009#14, 0x0008#14, 0x0063#14]

/-- Family 00 after the exact words (R64 steps 2 and 3). -/
theorem decodeFamily00_of_not_exact {w : InsnWord} (h : w ∉ exactWords) :
    decodeFamily00 w = if w &&& 0x3F9F#14 = 0x0000#14 then .ok .nop else decodeMasked00 w := by
  obtain ⟨hclrwdt, hretfie, hret, hsleep⟩ : w ≠ 0x0064#14 ∧ w ≠ 0x0009#14 ∧ w ≠ 0x0008#14 ∧ w ≠ 0x0063#14 := by
    simpa [exactWords] using h
  rw [decodeFamily00, if_neg hclrwdt, if_neg hretfie, if_neg hret, if_neg hsleep]

/-- Family 00 reaches the masked dispatch unless `word[11:7]` is 0. -/
theorem decodeFamily00_masked {w : InsnWord} (h : w &&& 0x0F80#14 ≠ 0#14) : decodeFamily00 w = decodeMasked00 w := by
  have hexact : ∀ v ∈ exactWords, v &&& 0x0F80#14 = 0#14 := by simp [exactWords]
  have hnop : w &&& 0x3F9F#14 ≠ 0#14 := fun h0 => h <| by
    have hsub : (0x0F80#14) = 0x3F9F#14 &&& 0x0F80#14 := by decide
    rw [hsub, ← BitVec.and_assoc, h0, BitVec.zero_and]
  rw [decodeFamily00_of_not_exact (fun hw => h (hexact w hw)), if_neg hnop]

/-- A word whose masked value lies in family 00 and has `word[11:7]` not 0. -/
theorem decode_masked {w mask bits : InsnWord} (h : w &&& mask = bits)
    (hfamily : mask.extractLsb' 12 2 = BitVec.allOnes 2) (hzero : bits.extractLsb' 12 2 = 0#2)
    (hop : bits &&& 0x0F80#14 ≠ 0#14) : decode w = decodeMasked00 w := by
  rw [decode_family00 ((extractLsb'_of_mask h 12 2 hfamily).trans hzero), decodeFamily00_masked]
  intro h0
  exact hop ((masked_values_agree h h0).trans BitVec.zero_and)

/-- Family 11's opcode, where its low two bits are ignored. -/
theorem opcode_eq_high2_append (w : InsnWord) : w.extractLsb' 8 4 = w.extractLsb' 10 2 ++ w.extractLsb' 8 2 :=
  (BitVec.extractLsb'_append_extractLsb'_eq_extractLsb' (start₁ := 8) (len₁ := 2) (len₂ := 2) rfl).symm

/-- Family 11's opcode, where its low bit is ignored. -/
theorem opcode_eq_high3_append (w : InsnWord) : w.extractLsb' 8 4 = w.extractLsb' 9 3 ++ w.extractLsb' 8 1 :=
  (BitVec.extractLsb'_append_extractLsb'_eq_extractLsb' (start₁ := 8) (len₁ := 1) (len₂ := 3) rfl).symm

theorem bitVec2_cases : ∀ x : BitVec 2, x = 0#2 ∨ x = 1#2 ∨ x = 2#2 ∨ x = 3#2 := by decide

/-- The decoder answers the instruction of the row the word matches, with the word's fields as operands. -/
theorem decode_of_matches {w : InsnWord} {i : Instr} (h : MatchesRow w i) : decode w = .ok (i.withFields w) := by
  cases i <;> dsimp only [MatchesRow, opcodeRow] at h
  case addwf | andwf | comf | decf | decfsz | incf | incfsz | iorwf | movf | rlf | rrf | subwf | swapf | xorwf =>
    rw [decode_masked h (by decide) (by decide) (by decide), decodeMasked00, extractLsb'_of_mask h 8 4 (by decide)]
    rfl
  case clrf | clrw | movwf =>
    rw [decode_masked h (by decide) (by decide) (by decide), decodeMasked00, extractLsb'_of_mask h 8 4 (by decide),
      getLsbD_of_mask h 7 (by decide)]
    rfl
  case nop =>
    have hexact : ∀ v ∈ exactWords, v &&& 0x3F9F#14 ≠ 0#14 := by simp [exactWords]
    rw [decode_family00 (extractLsb'_of_mask h 12 2 (by decide)), decodeFamily00_of_not_exact (fun hw => hexact w hw h)]
    exact if_pos h
  case clrwdt | retfie | ret | sleep =>
    obtain rfl := BitVec.and_allOnes.symm.trans h
    decide
  case bcf | bsf | btfsc | btfss =>
    rw [decode_family01 (extractLsb'_of_mask h 12 2 (by decide)), decodeFamily01,
      extractLsb'_of_mask h 10 2 (by decide)]
    rfl
  case call | goto =>
    rw [decode_family10 (extractLsb'_of_mask h 12 2 (by decide)), decodeFamily10, getLsbD_of_mask h 11 (by decide)]
    rfl
  case andlw | iorlw | xorlw =>
    rw [decode_family11 (extractLsb'_of_mask h 12 2 (by decide)), decodeFamily11, extractLsb'_of_mask h 8 4 (by decide)]
    rfl
  case movlw | retlw =>
    rw [decode_family11 (extractLsb'_of_mask h 12 2 (by decide)), decodeFamily11, opcode_eq_high2_append,
      extractLsb'_of_mask h 10 2 (by decide)]
    obtain hx | hx | hx | hx := bitVec2_cases (w.extractLsb' 8 2) <;> rw [hx] <;> rfl
  case addlw | sublw =>
    rw [decode_family11 (extractLsb'_of_mask h 12 2 (by decide)), decodeFamily11, opcode_eq_high3_append,
      extractLsb'_of_mask h 9 3 (by decide)]
    obtain hx | hx := BitVec.eq_zero_or_eq_one (w.extractLsb' 8 1) <;> rw [hx] <;> rfl

/-- Settles O1: the canonical word matches the instruction's row, and its fields are the instruction's operands. -/
theorem decodeOfEncodeIsIdentity : Obligations.DecodeOfEncodeIsIdentity := by
  intro i
  rw [decode_of_matches (matches_encode i), withFields_encode]

/-! ### The words no row has (R69) -/

/-- The seven ranges of illegal words (R69). -/
def ListedIllegal (n : Nat) : Prop :=
  (0x0001 ≤ n ∧ n ≤ 0x0007) ∨ (0x000A ≤ n ∧ n ≤ 0x001F) ∨ (0x0021 ≤ n ∧ n ≤ 0x003F) ∨ (0x0041 ≤ n ∧ n ≤ 0x005F) ∨
    (0x0061 ≤ n ∧ n ≤ 0x0062) ∨ (0x0065 ≤ n ∧ n ≤ 0x007F) ∨ (0x3B00 ≤ n ∧ n ≤ 0x3BFF)

/-- A field of a word, in terms of the word as a number. -/
theorem extractLsb'_eq_iff {w : InsnWord} {start len v : Nat} :
    w.extractLsb' start len = BitVec.ofNat len v ↔ w.toNat / 2 ^ start % 2 ^ len = v % 2 ^ len := by
  rw [← BitVec.toNat_inj, BitVec.extractLsb'_toNat, Nat.shiftRight_eq_div_pow, BitVec.toNat_ofNat]

/-- The words of opcode 1011 in family 11 are refused (R68). -/
theorem decode_unassigned11 {w : InsnWord} (hlow : 0x3B00 ≤ w.toNat) (hhigh : w.toNat ≤ 0x3BFF) :
    decode w = .error (.unrecognizedWord w) := by
  have hfamily : w.extractLsb' 12 2 = 3#2 := extractLsb'_eq_iff.mpr (by omega)
  have hop : w.extractLsb' 8 4 = 11#4 := extractLsb'_eq_iff.mpr (by omega)
  rw [decode_family11 hfamily, decodeFamily11, hop]
  rfl

/-- The words below 0x0080 in the list are refused: they are no exact word, no NOP, and reach no masked opcode (R64). -/
theorem decode_unassigned00 {w : InsnWord} (hlisted : ListedIllegal w.toNat) (hlow : w.toNat < 0x0080) :
    decode w = .error (.unrecognizedWord w) := by
  have hfamily : w.extractLsb' 12 2 = 0#2 := extractLsb'_eq_iff.mpr (by omega)
  have hop : w.extractLsb' 8 4 = 0#4 := extractLsb'_eq_iff.mpr (by omega)
  have hbit : w.getLsbD 7 = false := Nat.testBit_lt_two_pow hlow
  have hexact : ∀ v ∈ exactWords, ¬ ListedIllegal v.toNat := by simp [exactWords, ListedIllegal]
  have hnop : w &&& 0x3F9F#14 ≠ 0x0000#14 := by
    intro h
    have hlow5 : w.toNat / 2 ^ 0 % 2 ^ 5 = 0 := extractLsb'_eq_iff.mp (extractLsb'_of_mask h 0 5 (by decide))
    unfold ListedIllegal at hlisted
    omega
  rw [decode_family00 hfamily, decodeFamily00_of_not_exact (fun hw => hexact w hw hlisted), if_neg hnop,
    decodeMasked00, hop, hbit]
  rfl

theorem decode_of_listed {w : InsnWord} (h : ListedIllegal w.toNat) : decode w = .error (.unrecognizedWord w) := by
  by_cases hlow : w.toNat < 0x0080
  · exact decode_unassigned00 h hlow
  · unfold ListedIllegal at h
    exact decode_unassigned11 (by omega) (by omega)

/-! ### Every other word has a row -/

/-- The words that begin with these seven bits belong to one row, which leaves the other seven out of its mask. -/
def headHasRow (head : BitVec 7) : Bool :=
  match decode (head ++ 0#7) with
  | .ok i =>
    let row := opcodeRow i
    decide (0x3F80#14 &&& row.mask = row.mask ∧ (head ++ 0#7) &&& row.mask = row.bits)
  | .error _ => false

/-- The heads with more than one row or none: 0x00 (the fixed words, R65) and 0x76, 0x77 (unassigned, R68). -/
theorem headHasRow_of_assigned :
    ∀ head : BitVec 7, head ≠ 0x00#7 → head ≠ 0x76#7 → head ≠ 0x77#7 → headHasRow head = true := by decide

theorem and_head (w : InsnWord) : w &&& 0x3F80#14 = w.extractLsb' 7 7 ++ 0#7 := by
  have hw : w.extractLsb' 7 7 ++ w.extractLsb' 0 7 = w := BitVec.extractLsb'_append_extractLsb' (w := 7) (len := 7)
  calc w &&& 0x3F80#14
      = (w.extractLsb' 7 7 ++ w.extractLsb' 0 7) &&& (BitVec.allOnes 7 ++ 0#7) := by rw [hw]; rfl
    _ = w.extractLsb' 7 7 ++ 0#7 := by rw [BitVec.and_append, BitVec.and_allOnes, BitVec.and_zero]

theorem exists_matches_of_headHasRow {w : InsnWord} (h : headHasRow (w.extractLsb' 7 7) = true) :
    ∃ i, MatchesRow w i := by
  unfold headHasRow at h
  cases hd : decode (w.extractLsb' 7 7 ++ 0#7) with
  | error _ => simp [hd] at h
  | ok i =>
    obtain ⟨hmask, hrow⟩ : 0x3F80#14 &&& (opcodeRow i).mask = (opcodeRow i).mask ∧
        MatchesRow (w.extractLsb' 7 7 ++ 0#7) i := by
      simpa [hd, MatchesRow] using h
    refine ⟨i, ?_⟩
    rw [MatchesRow, ← hmask, ← BitVec.and_assoc, and_head]
    exact hrow

theorem exists_matches_of_not_listed {w : InsnWord} (h : ¬ ListedIllegal w.toNat) : ∃ i, MatchesRow w i := by
  unfold ListedIllegal at h
  by_cases hlow : w.toNat < 0x0080
  · have hfixed : w = 0x0000#14 ∨ w = 0x0020#14 ∨ w = 0x0040#14 ∨ w = 0x0060#14 ∨ w = 0x0008#14 ∨ w = 0x0009#14 ∨
        w = 0x0063#14 ∨ w = 0x0064#14 := by bv_omega
    obtain rfl | rfl | rfl | rfl | rfl | rfl | rfl | rfl := hfixed
    · exact ⟨.nop, rfl⟩
    · exact ⟨.nop, rfl⟩
    · exact ⟨.nop, rfl⟩
    · exact ⟨.nop, rfl⟩
    · exact ⟨.ret, rfl⟩
    · exact ⟨.retfie, rfl⟩
    · exact ⟨.sleep, rfl⟩
    · exact ⟨.clrwdt, rfl⟩
  · refine exists_matches_of_headHasRow (headHasRow_of_assigned _ ?_ ?_ ?_) <;> rw [Ne, extractLsb'_eq_iff] <;> omega

/-- A word that decodes matches the row of its instruction. -/
theorem matches_of_decode {w : InsnWord} {i : Instr} (h : decode w = .ok i) : MatchesRow w i := by
  have hlegal : ¬ ListedIllegal w.toNat := fun hl => nomatch (decode_of_listed hl).symm.trans h
  obtain ⟨j, hj⟩ := exists_matches_of_not_listed hlegal
  obtain rfl : j.withFields w = i := Except.ok.inj ((decode_of_matches hj).symm.trans h)
  rwa [MatchesRow, opcodeRow_withFields]

/-! ### The statements about all words -/

/-- Settles O2, each direction by one of the decoder's two lemmas about rows. -/
theorem decoderFollowsTheOpcodeMap : Obligations.DecoderFollowsTheOpcodeMap := by
  intro w i
  constructor
  · rintro ⟨j, hd, hrow⟩
    rw [← hrow]
    exact matches_of_decode hd
  · intro h
    exact ⟨_, decode_of_matches h, opcodeRow_withFields w i⟩

/-- Settles O3: the instruction's operands are the word's fields, and those are all the bits its row does not fix or
ignore. -/
theorem decodedOperandsAreTheWordsFields : Obligations.DecodedOperandsAreTheWordsFields := by
  intro w i h
  have hrow : MatchesRow w i := matches_of_decode h
  have hi : i = i.withFields w := Except.ok.inj (h.symm.trans (decode_of_matches hrow))
  exact (congrArg encode hi).trans (encode_withFields_of_matches hrow)

/-- Settles O4: a listed word is refused, and any other matches a row. -/
theorem illegalWordsAreExactlyTheListed : Obligations.IllegalWordsAreExactlyTheListed := by
  intro w
  change (decode w = .error (.unrecognizedWord w) ↔ ListedIllegal w.toNat) ∧
    ((∃ i, decode w = .ok i) ↔ ¬ ListedIllegal w.toNat)
  by_cases hl : ListedIllegal w.toNat
  · simp [hl, decode_of_listed hl]
  · obtain ⟨i, hrow⟩ := exists_matches_of_not_listed hl
    simp [hl, decode_of_matches hrow]

/-- Settles O5: the decoder, evaluated on the six words. -/
theorem writtenOutWordsDecode : Obligations.WrittenOutWordsDecode := by
  unfold Obligations.WrittenOutWordsDecode
  decide

end Sys2Proof
end

section
/-! Proofs of the statements of spec/40_execution_and_alu.md: the step (R80), the flag write (R86) and the skip (R88). -/

namespace Sys2Proof.Machine

/-! ### The step (R80) -/

/-- Settles O10: the fetched state is the one the statement writes out, so this is `step_of_decode`. -/
theorem stepRunsTheDecodedInstruction : Obligations.StepRunsTheDecodedInstruction := by
  intro s i _ hr hd
  exact step_of_decode hr hd

/-! ### The flag write (R86) -/

/-- A byte made from its bits is the library's little-endian bit list. -/
theorem byteOfBits_eq_ofBoolListLE (b0 b1 b2 b3 b4 b5 b6 b7 : Bool) :
    byteOfBits b0 b1 b2 b3 b4 b5 b6 b7 = BitVec.ofBoolListLE [b0, b1, b2, b3, b4, b5, b6, b7] := by
  cases b7 <;> rfl

/-- The model's masked updates of STATUS and the spec's reading of the flag write agree on every bit. -/
theorem applyFlags_eq_withFlags (z c dc : Option Bool) (v : Byte) : applyFlags z c dc v = withFlags z c dc v := by
  refine BitVec.eq_of_getLsbD_eq fun j hj => ?_
  rw [withFlags, byteOfBits_eq_ofBoolListLE, BitVec.getLsbD_ofBoolListLE]
  refine (applyFlags_getLsbD z c dc v ⟨j, hj⟩).trans ?_
  interval_cases j <;> rfl

/-- Settles O8: the flag write is a routed write to STATUS (O7) of the value `withFlags` gives. -/
theorem flagWriteChangesOnlyItsBits : Obligations.FlagWriteChangesOnlyItsBits := by
  intro s z c dc
  rw [State.setFlags, applyFlags_eq_withFlags]
  exact memWriteRoutesToItsCells s 0x03#8 (withFlags z c dc s.status)

/-! ### The skip (R88) -/

/-- An instruction that may skip does not load PC. -/
theorem redirectsPc_of_skipTaken {i : Instr} {s : State} {taken : Bool} (h : skipTaken i s = some taken) :
    redirectsPc i = false := by
  cases i with
  | goto | call | ret | retfie | retlw => cases h
  | _ => rfl

/-- Settles O20: PC is as R14 lists for a skip (O19), and IR is the word the step fetched (O23). -/
theorem skipPassesExactlyOneWord : Obligations.SkipPassesExactlyOneWord := by
  intro s i taken hr hd hskip
  obtain ⟨t, hstep, hpc⟩ := nextPcFollowsTheListedWays s i hr hd
  obtain ⟨_, _, _, _, hir⟩ := noStepWritesProgramOrEeprom s t hstep
  refine ⟨t, hstep, hir hr, ?_⟩
  rw [hpc, pcAfter_of_not_redirects (redirectsPc_of_skipTaken hskip), hskip]
  cases taken <;> rfl

end Sys2Proof.Machine
end

section
/-! Proofs of the statements of spec/41_byte_oriented.md: what the shared shapes of R81 leave behind, the results and flags of
R100 to R116 as arithmetic on unsigned numbers, and the instructions. -/

namespace Sys2Proof.Machine

/-! ### The shared shapes (R81) -/

/-- The flag write after other writes (R86): `flagged` on top of the data memory they left. -/
theorem Becomes.setFlags {s t : State} {w : Byte} {pc : ProgAddr} {m : PhysAddr → Byte} (h : Becomes s t w pc m)
    (z c dc : Option Bool) : Becomes s (t.setFlags z c dc) w pc (flagged m z c dc) := by
  obtain ⟨hw, hpc, hothers, hm⟩ := h
  obtain ⟨_, _, _, hflags⟩ := flagWriteChangesOnlyItsBits t z c dc
  exact ⟨hw, hpc, hothers, fun qa => (hflags qa).trans (by rw [funext hm])⟩

/-- A skip after other writes (R88). -/
theorem Becomes.skipIf {s t : State} {w : Byte} {pc : ProgAddr} {m : PhysAddr → Byte} (h : Becomes s t w pc m)
    (cond : Bool) : Becomes s (t.skipIf cond) w (if cond then pc + 1#13 else pc) m := by
  obtain ⟨hw, rfl, hothers, hm⟩ := h
  cases cond <;> exact ⟨hw, rfl, hothers, hm⟩

/-- All a result written to its destination does (R82). -/
theorem byteOp_becomes (f : FileAddr) (d : Dest) (r : Byte) (s : State) :
    Becomes s (byteOp f d r s) (destW s.w d r) s.pc (destMemory s.memRead d (ea f s) r) := by
  cases d with
  | w => exact ⟨rfl, rfl, (byteOp_plainWrites f .w r s).keepsOthers, fun _ => rfl⟩
  | f => exact memWriteRoutesToItsCells s (ea f s) r

/-- All a result written before flags does (R81). -/
theorem byteOpFlags_becomes (f : FileAddr) (d : Dest) (r : Byte) (z c dc : Option Bool) (s : State) :
    Becomes s (byteOpFlags f d r z c dc s) (destW s.w d r) s.pc (flagged (destMemory s.memRead d (ea f s) r) z c dc) :=
  (byteOp_becomes f d r s).setFlags z c dc

/-- All a result written to W before flags does (R81). -/
theorem litOpFlags_becomes (r : Byte) (z c dc : Option Bool) (s : State) :
    Becomes s (litOpFlags r z c dc s) r s.pc (flagged s.memRead z c dc) :=
  (byteOp_becomes 0#7 .w r s).setFlags z c dc

/-! ### The flags as arithmetic (R83 to R87) -/

theorem zOf_eq_zero (r : Byte) : zOf r = zero r.toNat := by
  rw [zOf, zero, beq_eq_decide]
  exact decide_eq_decide.mpr BitVec.toNat_inj.symm

theorem lowNibble_toNat (v : Byte) : (v &&& 0x0F#8).toNat = v.toNat % 16 := by
  rw [BitVec.toNat_and]
  exact Nat.and_two_pow_sub_one_eq_mod v.toNat 4

/-- C of an addition, under either polarity (R84). -/
theorem cOfAdd_eq_sumCarry (p : CarryPolarity) (a b : Byte) : cOfAdd p a b = sumCarry p (a.toNat + b.toNat) := by
  cases p with
  | noCarryOut =>
    rw [cOfAdd, carryOf, sumCarry, ← decide_not]
    exact decide_eq_decide.mpr Nat.not_lt
  | carryOut => rfl

theorem dcOfAdd_eq_digitSum (a b : Byte) : dcOfAdd a b = digitSum a.toNat b.toNat := by
  rw [dcOfAdd, lowNibble_toNat, lowNibble_toNat]
  rfl

/-- C and DC of a subtraction, under the conventional rule and under any other (R87). -/
theorem subFlags_eq_borrowFlags (rule : SubFlagRule) (m s : Byte) : subFlags rule m s = borrowFlags rule m s := by
  cases rule with
  | conventional =>
    have hdigit : m &&& 0x0F#8 ≥ s &&& 0x0F#8 ↔ s.toNat % 16 ≤ m.toNat % 16 := by
      rw [ge_iff_le, BitVec.le_def, lowNibble_toNat, lowNibble_toNat]
    exact congrArg (Prod.mk _) (decide_eq_decide.mpr hdigit)
  | other n => rfl

/-! ### The results as numbers -/

theorem ofNat_eq_of_toNat_eq {r : Byte} {n : Nat} (h : r.toNat = n) : BitVec.ofNat 8 n = r := by
  rw [← h, BitVec.ofNat_toNat, BitVec.setWidth_eq]

/-- A result that is the number `n`, written before Z and perhaps C and DC. -/
theorem byteOpFlags_becomes_of_toNat {r : Byte} {n : Nat} (h : r.toNat = n) (f : FileAddr) (d : Dest)
    (c dc : Option Bool) (s : State) :
    Becomes s (byteOpFlags f d r (some (zOf r)) c dc s) (destW s.w d (BitVec.ofNat 8 n)) s.pc
      (flagged (destMemory s.memRead d (ea f s) (BitVec.ofNat 8 n)) (some (zero n)) c dc) := by
  rw [ofNat_eq_of_toNat_eq h, ← h, ← zOf_eq_zero]
  exact byteOpFlags_becomes ..

/-- The same with Z alone, and a skip when the result is 0 (R106, R108). -/
theorem byteOpFlags_skipIf_becomes_of_toNat {r : Byte} {n : Nat} (h : r.toNat = n) (f : FileAddr) (d : Dest)
    (s : State) :
    Becomes s ((byteOpFlags f d r (some (zOf r)) none none s).skipIf (r == 0#8)) (destW s.w d (BitVec.ofNat 8 n))
      (if n = 0 then s.pc + 1#13 else s.pc)
      (flagged (destMemory s.memRead d (ea f s) (BitVec.ofNat 8 n)) (some (zero n)) none none) := by
  have hzero : (r == 0#8) = decide (n = 0) := h ▸ zOf_eq_zero r
  rw [hzero]
  simpa only [decide_eq_true_eq] using (byteOpFlags_becomes_of_toNat h f d none none s).skipIf (decide (n = 0))

theorem incremented_toNat (v : Byte) : (v + 1#8).toNat = if v.toNat = 255 then 0 else v.toNat + 1 := by
  split <;> bv_omega

theorem decremented_toNat (v : Byte) : (v - 1#8).toNat = if v.toNat = 0 then 255 else v.toNat - 1 := by
  split <;> bv_omega

theorem sub_toNat (v w : Byte) : (v - w).toNat = (v.toNat + 256 - w.toNat) % 256 := by
  bv_omega

theorem xor_allOnes_toNat (v : Byte) : (v ^^^ 0xFF#8).toNat = 255 - v.toNat := by
  rw [show (0xFF#8) = BitVec.allOnes 8 from rfl, BitVec.xor_allOnes, BitVec.toNat_not]

/-- A byte shifted left with the freed bits filled from another. -/
theorem shiftLeft_or_toNat {n : Nat} (x : Byte) {y : Byte} (hy : y.toNat < 2 ^ n) :
    (x <<< n ||| y).toNat = (x.toNat * 2 ^ n + y.toNat) % 256 := by
  have hmod : y.toNat = y.toNat % 2 ^ 8 := (Nat.mod_eq_of_lt y.isLt).symm
  calc (x <<< n ||| y).toNat
      = x.toNat <<< n % 2 ^ 8 ||| y.toNat % 2 ^ 8 := by rw [BitVec.toNat_or, BitVec.toNat_shiftLeft, ← hmod]
    _ = (x.toNat <<< n ||| y.toNat) % 2 ^ 8 := (Nat.or_mod_two_pow ..).symm
    _ = (x.toNat * 2 ^ n + y.toNat) % 256 := by rw [← Nat.shiftLeft_add_eq_or_of_lt hy, Nat.shiftLeft_eq]

theorem shiftRight_toNat (v : Byte) (n : Nat) : (v >>> n).toNat = v.toNat / 2 ^ n := by
  rw [BitVec.toNat_ushiftRight, Nat.shiftRight_eq_div_pow]

/-- The nibbles exchanged (R115). -/
theorem swapped_toNat (v : Byte) : (v <<< 4 ||| v >>> 4).toNat = v.toNat % 16 * 16 + v.toNat / 16 := by
  have hhigh : (v >>> 4).toNat = v.toNat / 16 := shiftRight_toNat v 4
  rw [shiftLeft_or_toNat v (by omega), hhigh]
  omega

/-- One place to the left, with C coming in at bit 0 (R112). -/
theorem rotatedLeft_toNat (v : Byte) (c : Bool) :
    (v <<< 1 ||| if c then 0x01#8 else 0x00#8).toNat = (2 * v.toNat + c.toNat) % 256 := by
  have hc : (if c then 0x01#8 else 0x00#8).toNat = c.toNat := by cases c <;> rfl
  rw [shiftLeft_or_toNat v (hc ▸ c.toNat_lt), hc, Nat.pow_one, Nat.mul_comm]

/-- One place to the right, with C coming in at bit 7 (R113). -/
theorem rotatedRight_toNat (v : Byte) (c : Bool) :
    ((if c then 0x80#8 else 0x00#8) ||| v >>> 1).toNat = v.toNat / 2 + 128 * c.toNat := by
  have hc : (if c then 0x80#8 else 0x00#8) = BitVec.ofNat 8 c.toNat <<< 7 := by cases c <;> rfl
  have hlow : (v >>> 1).toNat = v.toNat / 2 := shiftRight_toNat v 1
  have hcarry : c.toNat < 2 := c.toNat_lt
  rw [hc, shiftLeft_or_toNat _ (by omega), hlow, BitVec.toNat_ofNat]
  omega

/-- C as the rotates read it (R21). -/
theorem carry_toNat (s : State) : s.carry.toNat = (s.memRead 0x03#8).toNat % 2 := by
  rw [State.carry, State.status, BitVec.getLsbD, Nat.toNat_testBit, Nat.pow_zero, Nat.div_one]

theorem bit7_eq (v : Byte) : v.getLsbD 7 = decide (128 ≤ v.toNat) := BitVec.msb_eq_decide v

theorem bit0_eq (v : Byte) : v.getLsbD 0 = decide (v.toNat % 2 = 1) := Nat.testBit_zero v.toNat

/-! ### The instructions -/

/-- Settles O35: the sum mod 256 is the byte the model adds. -/
theorem addwfWritesSumAndFlags : Obligations.AddwfWritesSumAndFlags := by
  intro f d s
  dsimp only
  rw [← cOfAdd_eq_sumCarry, ← dcOfAdd_eq_digitSum]
  exact ⟨_, rfl, byteOpFlags_becomes_of_toNat (BitVec.toNat_add ..) ..⟩

/-- Settles O36: the three meanings differ in the result alone. -/
theorem bitwiseFileOpsWriteResultAndZ : Obligations.BitwiseFileOpsWriteResultAndZ := by
  intro f d s
  dsimp only
  simp only [← zOf_eq_zero]
  exact ⟨⟨_, rfl, byteOpFlags_becomes ..⟩, ⟨_, rfl, byteOpFlags_becomes ..⟩, ⟨_, rfl, byteOpFlags_becomes ..⟩⟩

/-- Settles O37: CLRF is a write to the register, CLRW a write to W; both then set Z. -/
theorem clearsWriteZeroAndSetZ : Obligations.ClearsWriteZeroAndSetZ := fun f s =>
  ⟨⟨_, rfl, byteOpFlags_becomes f .f 0x00#8 (some true) none none s⟩,
    ⟨_, rfl, litOpFlags_becomes 0x00#8 (some true) none none s⟩⟩

/-- Settles O38: the exclusive or with 0xFF is the difference from 255. -/
theorem comfWritesComplementAndZ : Obligations.ComfWritesComplementAndZ := by
  intro f d s
  dsimp only
  rw [ofNat_eq_of_toNat_eq (xor_allOnes_toNat _), ← zOf_eq_zero]
  exact ⟨_, rfl, byteOpFlags_becomes ..⟩

/-- Settles O39: the model's sum and difference wrap at 255 and at 0. -/
theorem incfDecfWrapAndSetZ : Obligations.IncfDecfWrapAndSetZ := fun f d s =>
  ⟨⟨_, rfl, byteOpFlags_becomes_of_toNat (incremented_toNat _) f d none none s⟩,
    ⟨_, rfl, byteOpFlags_becomes_of_toNat (decremented_toNat _) f d none none s⟩⟩

/-- Settles O40: as O39, and the skip is taken on the same number. -/
theorem incfszDecfszSkipOnZero : Obligations.IncfszDecfszSkipOnZero := fun f d s =>
  ⟨⟨_, rfl, byteOpFlags_skipIf_becomes_of_toNat (incremented_toNat _) f d s⟩,
    ⟨_, rfl, byteOpFlags_skipIf_becomes_of_toNat (decremented_toNat _) f d s⟩⟩

/-- Settles O41: none of the three meanings writes flags. -/
theorem movesAndSwapWriteNoFlag : Obligations.MovesAndSwapWriteNoFlag := by
  intro f d s
  dsimp only
  rw [ofNat_eq_of_toNat_eq (swapped_toNat _)]
  exact ⟨⟨_, rfl, byteOp_becomes ..⟩, ⟨_, rfl, byteOp_becomes ..⟩, ⟨_, rfl, byteOp_becomes f .f s.w s⟩⟩

/-- Settles O42: the shifted-out bit and the byte that takes C in, each read as a number. -/
theorem rotatesGoThroughCarry : Obligations.RotatesGoThroughCarry := by
  intro f d s
  dsimp only
  rw [← carry_toNat, ofNat_eq_of_toNat_eq (rotatedLeft_toNat _ _), ofNat_eq_of_toNat_eq (rotatedRight_toNat _ _),
    ← bit7_eq, ← bit0_eq]
  exact ⟨⟨_, rfl, byteOpFlags_becomes ..⟩, ⟨_, rfl, byteOpFlags_becomes ..⟩⟩

/-- Settles O43: the difference mod 256 is the byte the model subtracts. -/
theorem subwfWritesDifferenceAndFlags : Obligations.SubwfWritesDifferenceAndFlags := by
  intro f d s
  dsimp only
  rw [ofNat_eq_of_toNat_eq (sub_toNat _ _), ← zOf_eq_zero, ← subFlags_eq_borrowFlags]
  exact ⟨_, rfl, byteOpFlags_becomes ..⟩

end Sys2Proof.Machine
end

section
/-! Proofs of the statements of spec/42_control.md: the instructions without effect, the returns (R123, R124, R154), and a
CALL that comes back. -/

namespace Sys2Proof.Machine

/-! ### The control instructions (R120 to R124) -/

/-- Settles O46: each of the three meanings answers the state it is given. -/
theorem nopClrwdtSleepChangeNothing : Obligations.NopClrwdtSleepChangeNothing := fun _ => ⟨rfl, rfl, rfl⟩

/-- The pop into PC on a stack with an entry (R123). -/
theorem popToPc_of_cons {s : State} {a : ProgAddr} {rest : List ProgAddr} (hs : s.stack = a :: rest)
    (load : State → State) : popToPc load s = .next ((load (s.setStack rest)).setPc a) := by
  rw [popToPc, hs, pop_cons]

/-- Settles O47: the three returns are one pop, which differs in what is loaded. -/
theorem returnsPopIntoPc : Obligations.ReturnsPopIntoPc := fun _ _ _ k hs =>
  ⟨popToPc_of_cons hs id, popToPc_of_cons hs id, popToPc_of_cons hs (fun t => t.setW k)⟩

/-! ### CALL and RETURN (S6) -/

/-- CALL on a stack with room (R141). -/
theorem execCall_of_room {s : State} (hroom : s.stack.length < 8) (k : JumpLit) :
    execCall k s = .next ((s.setStack (s.pc :: s.stack)).setPc (target k s)) := by
  rw [execCall, push_eq, if_pos hroom]

/-- The step at a CALL on a stack with room: the address after the CALL is pushed, and PC is the target (R80, R141). -/
theorem step_call {s : State} {k : JumpLit} (hr : s.ready = true) (hroom : s.stack.length < 8)
    (hd : decode (s.progRead s.pc) = .ok (.call k)) :
    step s = .next ((s.fetch.setStack ((s.pc + 1#13) :: s.stack)).setPc (target k s)) :=
  (step_of_decode hr hd).trans (execCall_of_room (s := s.fetch) hroom k)

/-- The step at a RETURN on a stack with an entry: the entry is popped into PC (R80, R123). -/
theorem step_ret {s : State} {a : ProgAddr} {rest : List ProgAddr} (hr : s.ready = true) (hs : s.stack = a :: rest)
    (hd : decode (s.progRead s.pc) = .ok .ret) : step s = .next ((s.fetch.setStack rest).setPc a) :=
  (step_of_decode hr hd).trans (popToPc_of_cons (s := s.fetch) hs id)

/-- Settles O50: the RETURN pops the entry the CALL pushed, and the CALL leaves the program as it was. -/
theorem callThenReturnComesBack : Obligations.CallThenReturnComesBack := by
  intro s k hr hroom hcall hret
  exact ⟨_, step_call hr hroom hcall, step_ret hr rfl hret⟩

end Sys2Proof.Machine
end

section
/-! Proofs of the statements of spec/43_bit_oriented.md: one bit of a byte cleared or set as arithmetic on unsigned numbers,
the skip on a bit, and the instructions. -/

namespace Sys2Proof.Machine

/-! ### Clearing and setting as arithmetic -/

/-- The bits of a union are those of the first part and those the second adds. -/
theorem toNat_or_eq_add {w : Nat} (x y : BitVec w) : (x ||| y).toNat = x.toNat + (y &&& ~~~x).toNat := by
  have hdisjoint : x &&& (y &&& ~~~x) = 0#w := by
    rw [BitVec.and_comm y, ← BitVec.and_assoc, BitVec.and_not_self]
    exact BitVec.zero_and
  have hunion : x ||| (y &&& ~~~x) = x ||| y := by
    ext i
    cases hx : x[i] <;> simp [hx]
  rw [← hunion, ← BitVec.add_eq_or_of_and_eq_zero x _ hdisjoint, BitVec.toNat_add_of_and_eq_zero hdisjoint]

/-- Clearing the bits of a mask takes away what the mask keeps. -/
theorem toNat_and_not {w : Nat} (x y : BitVec w) : (x &&& ~~~y).toNat = x.toNat - (x &&& y).toNat := by
  have hrest : x &&& ~~~(x &&& y) = x &&& ~~~y := by
    ext i
    cases hx : x[i] <;> simp [hx]
  have hunion : x &&& y ||| x = x := by
    ext i
    cases hx : x[i] <;> simp [hx]
  have hsum := toNat_or_eq_add (x &&& y) x
  rw [hunion, hrest] at hsum
  exact Nat.eq_sub_of_add_eq' hsum.symm

theorem bitMask_toNat (b : BitIndex) : (bitMask b).toNat = 2 ^ b.toNat := by
  rw [bitMask, ← BitVec.twoPow_eq, BitVec.toNat_twoPow_of_lt b.isLt]

/-- The bit of a byte that the mask keeps, at its place. -/
theorem and_bitMask_toNat (v : Byte) (b : BitIndex) :
    (v &&& bitMask b).toNat = v.toNat / 2 ^ b.toNat % 2 * 2 ^ b.toNat := by
  rw [BitVec.toNat_and, bitMask_toNat, Nat.and_two_pow, Nat.toNat_testBit]

/-- One bit cleared (R130). -/
theorem clearedBit_toNat (v : Byte) (b : BitIndex) :
    (v &&& ~~~bitMask b).toNat = v.toNat - v.toNat / 2 ^ b.toNat % 2 * 2 ^ b.toNat := by
  rw [toNat_and_not, and_bitMask_toNat]

/-- One bit set (R131). -/
theorem setBit_toNat (v : Byte) (b : BitIndex) :
    (v ||| bitMask b).toNat = v.toNat + (1 - v.toNat / 2 ^ b.toNat % 2) * 2 ^ b.toNat := by
  rw [toNat_or_eq_add, toNat_and_not, BitVec.and_comm, and_bitMask_toNat, bitMask_toNat, Nat.sub_mul, Nat.one_mul]

/-! ### The skip on a condition (R88) -/

/-- A skip whose condition decides a proposition. -/
theorem skipIf_of_eq_decide (s : State) {c : Bool} {p : Prop} [Decidable p] (h : c = decide p) :
    s.skipIf c = { s with pc := if p then s.pc + 1#13 else s.pc } := by
  rw [skipIf_eq, h]
  by_cases hp : p <;> simp [hp]

/-! ### The instructions -/

/-- Settles O44: the byte written back is the masked one, read as a number. -/
theorem bitClearAndSetChangeOneBit : Obligations.BitClearAndSetChangeOneBit := by
  intro f b s
  dsimp only
  rw [ofNat_eq_of_toNat_eq (clearedBit_toNat _ _), ofNat_eq_of_toNat_eq (setBit_toNat _ _)]
  exact ⟨⟨_, rfl, byteOp_becomes f .f _ s⟩, ⟨_, rfl, byteOp_becomes f .f _ s⟩⟩

/-- Settles O45: the tested bit, read as a number, decides the skip, and a skip writes PC alone. -/
theorem bitTestsSkipAndWriteNothing : Obligations.BitTestsSkipAndWriteNothing := fun f b s =>
  ⟨congrArg Host.Outcome.next (skipIf_of_eq_decide s (bitClear_eq (operand f s) b)),
    congrArg Host.Outcome.next (skipIf_of_eq_decide s (bitSet_eq (operand f s) b))⟩

end Sys2Proof.Machine
end

section
/-! Proofs of the statements of spec/44_jump.md: CALL with room on the stack (R141), GOTO (R142), and the GOTO to itself at
which a run ends (D39). -/

namespace Sys2Proof.Machine

/-! ### The jump instructions (R140 to R142) -/

/-- Settles O48: with room the push succeeds, and `target_toNat` reads the target as a number. -/
theorem callPushesAndJumps : Obligations.CallPushesAndJumps := fun s k hroom =>
  ⟨_, execCall_of_room hroom k, rfl, target_toNat k s⟩

/-- Settles O49: GOTO sets PC alone, and `target_toNat` reads the target as a number. -/
theorem gotoJumpsToItsTarget : Obligations.GotoJumpsToItsTarget := fun s k =>
  ⟨_, rfl, rfl, target_toNat k s⟩

/-! ### The end of a run (D39) -/

/-- The step at a GOTO: PC is the target, which the fetch leaves as it was (R80, R142). -/
theorem step_goto {s : State} {k : JumpLit} (hr : s.ready = true) (hd : decode (s.progRead s.pc) = .ok (.goto k)) :
    step s = .next (s.fetch.setPc (target k s)) :=
  step_of_decode hr hd

/-- IR takes no part in whether a run is at its end. -/
theorem endOfRun_setIr (s : State) (w : InsnWord) : endOfRun (s.setIr w) ↔ endOfRun s := Iff.rfl

/-- The step at the end of a run writes IR alone: the GOTO takes the advance of PC back. -/
theorem step_of_endOfRun {s : State} (hr : s.ready = true) (hend : endOfRun s) :
    step s = .next (s.setIr (s.progRead s.pc)) := by
  obtain ⟨k, hd, htarget⟩ := hend
  rw [step_goto hr hd, htarget]
  rfl

/-- Settles O51: after the first step the run is still at its end and IR already holds the GOTO, so `step_of_endOfRun`
applies again and writes IR with what it holds. -/
theorem gotoToItselfIsTheEndOfARun : Obligations.GotoToItselfIsTheEndOfARun := by
  intro s hr hend
  have hend' : endOfRun (s.setIr (s.progRead s.pc)) := (endOfRun_setIr s _).mpr hend
  exact ⟨_, step_of_endOfRun hr hend, rfl, step_of_endOfRun hr hend'⟩

end Sys2Proof.Machine
end

section
/-! Proofs of the statements of spec/45_literal.md: the literal instructions, whose operands are W and the literal. RETLW is
settled with the returns. -/

namespace Sys2Proof.Machine

/-- Settles O52: the sum mod 256 is the byte the model adds. -/
theorem addlwWritesSumAndFlags : Obligations.AddlwWritesSumAndFlags := by
  intro k s
  dsimp only
  have hsum : (s.w + k).toNat = (s.w.toNat + k.toNat) % 256 := BitVec.toNat_add ..
  rw [ofNat_eq_of_toNat_eq hsum, ← hsum, ← zOf_eq_zero, ← cOfAdd_eq_sumCarry, ← dcOfAdd_eq_digitSum]
  exact ⟨_, rfl, litOpFlags_becomes ..⟩

/-- Settles O53: the three meanings differ in the result alone. -/
theorem bitwiseLiteralOpsWriteWAndZ : Obligations.BitwiseLiteralOpsWriteWAndZ := by
  intro k s
  dsimp only
  simp only [← zOf_eq_zero]
  exact ⟨⟨_, rfl, litOpFlags_becomes ..⟩, ⟨_, rfl, litOpFlags_becomes ..⟩, ⟨_, rfl, litOpFlags_becomes ..⟩⟩

/-- Settles O55: the difference mod 256 is the byte the model subtracts. -/
theorem sublwWritesDifferenceAndFlags : Obligations.SublwWritesDifferenceAndFlags := by
  intro k s
  dsimp only
  rw [ofNat_eq_of_toNat_eq (sub_toNat _ _), ← zOf_eq_zero, ← subFlags_eq_borrowFlags]
  exact ⟨_, rfl, litOpFlags_becomes ..⟩

/-- Settles O54: the meaning writes W and no flag. -/
theorem movlwLoadsWOnly : Obligations.MovlwLoadsWOnly := fun _ _ => rfl

end Sys2Proof.Machine
end

section
/-! Proofs of the statements of spec/60_exceptions.md: which error a step ends with (R160 to R165, R168), and that an error
leaves the fetched state (R166). -/

namespace Sys2Proof.Machine

/-! ### The error of a word and of an instruction -/

/-- A word the decoder gives no instruction is refused by name (R69, R161). -/
theorem decode_refused_iff {w : InsnWord} : decode w = .error (.unrecognizedWord w) ↔ ∀ i, decode w ≠ .ok i := by
  cases hd : decode w with
  | ok i => simp
  | error e => simp [decode_error_names_the_word hd]

/-- A push fails where there is no room (R30, log 17). -/
theorem errorIn_push_eq_some_iff {st : List ProgAddr} {a : ProgAddr} {e : StepError} :
    errorIn (push st a) = some e ↔ e = .stackOverflow ∧ 8 ≤ st.length := by
  rw [push_eq]
  by_cases hroom : st.length < 8
  · simp [hroom, errorIn]
  · simp [hroom, errorIn, Nat.not_lt.mp hroom, eq_comm]

/-- A pop fails on the empty stack (R30). -/
theorem errorIn_pop_eq_some_iff {st : List ProgAddr} {e : StepError} :
    errorIn (pop st) = some e ↔ e = .stackUnderflow ∧ st = [] := by
  cases st <;> simp [errorIn, eq_comm]

/-- The errors of the instructions: a CALL's push and a return's pop (R163, R164, R168). -/
theorem errorOf_eq_some_iff {i : Instr} {s : State} {e : StepError} : errorOf i s = some e ↔
    (e = .stackOverflow ∧ 8 ≤ s.stack.length ∧ ∃ k, i = .call k) ∨
      (e = .stackUnderflow ∧ s.stack = [] ∧ (i = .ret ∨ i = .retfie ∨ ∃ k, i = .retlw k)) := by
  cases i with
  | call k => simp [errorOf, errorIn_push_eq_some_iff]
  | ret | retfie | retlw => simp [errorOf, errorIn_pop_eq_some_iff]
  | _ => simp [errorOf]

/-! ### The error of a step -/

/-- The error of the step before the first reset (R165). -/
theorem stepError_of_not_ready {s : State} (hr : s.ready = false) : stepError s = some .notReady := by
  simp [stepError, hr]

/-- The error of a step whose word at PC is refused (R161). -/
theorem stepError_of_refused {s : State} {w : InsnWord} (hr : s.ready = true)
    (hd : decode (s.progRead s.pc) = .error (.unrecognizedWord w)) : stepError s = some (.decodeError w) := by
  simp [stepError, hr, hd]

/-- The ways a ready step ends with an error: its word is refused, or its instruction raises the error. -/
theorem stepError_eq_some_iff {s : State} {e : StepError} (hr : s.ready = true) : stepError s = some e ↔
    (e = .decodeError (s.progRead s.pc) ∧ decode (s.progRead s.pc) = .error (.unrecognizedWord (s.progRead s.pc))) ∨
      ∃ i, decode (s.progRead s.pc) = .ok i ∧ errorOf i s.fetch = some e := by
  cases hd : decode (s.progRead s.pc) with
  | ok i => simp [stepError_of_decode hr hd]
  | error d =>
    obtain rfl := decode_error_names_the_word hd
    simp [stepError_of_refused hr hd, eq_comm]

/-- A step's report of its error (R160, R166). -/
theorem stepReport_of_error {s : State} {e : StepError} (he : stepError s = some e) : stepReport s = .error e := by
  simp [stepReport, he]

/-- A ready step that ends with an error leaves the fetched state (R166). -/
theorem step_of_error {s : State} {e : StepError} (hr : s.ready = true) (he : stepError s = some e) :
    step s = .next s.fetch := by
  obtain ⟨_, hd⟩ | ⟨i, hd, hi⟩ := (stepError_eq_some_iff hr).mp he
  · exact step_of_refused hr hd
  · exact (step_of_decode hr hd).trans (exec_of_error hi)

/-- A ready step that ends with an error, as the rules R161, R163 and R164 word it. -/
theorem step_of_error_advances {s : State} {e : StepError} (hr : s.ready = true) (he : stepError s = some e) :
    ∃ t, step s = .next t ∧ t = { s with ir := s.progRead s.pc, pc := t.pc } ∧ t.pc.toNat = (s.pc.toNat + 1) % 8192 ∧
      stepReport s = .error e :=
  ⟨s.fetch, step_of_error hr he, rfl, advance_toNat s.pc, stepReport_of_error he⟩

/-! ### The statements -/

/-- Settles O12. -/
theorem stepBeforeResetChangesNothing : Obligations.StepBeforeResetChangesNothing := fun _ hr =>
  ⟨step_of_not_ready hr, stepReport_of_error (stepError_of_not_ready hr)⟩

/-- Settles O16: the fetched state is the one the statement writes out. -/
theorem anErrorStepIsANopStep : Obligations.AnErrorStepIsANopStep := fun _ _ hr he =>
  ⟨step_of_error hr he, stepReport_of_error he⟩

/-- Settles O13: a word that decoded would match the row of its instruction. -/
theorem illegalWordEndsTheStepAdvanced : Obligations.IllegalWordEndsTheStepAdvanced := by
  intro s hr hnorow
  have hd := decode_refused_iff.mpr fun i hi => hnorow i (matches_of_decode hi)
  exact step_of_error_advances hr (stepError_of_refused hr hd)

/-- Settles O14: the push of the CALL fails. -/
theorem callOnFullStackIsNotMade : Obligations.CallOnFullStackIsNotMade := by
  intro s k hr hd hfull
  have he : errorOf (.call k) s.fetch = some .stackOverflow := errorOf_eq_some_iff.mpr (.inl ⟨rfl, hfull.ge, k, rfl⟩)
  exact step_of_error_advances hr ((stepError_of_decode hr hd).trans he)

/-- Settles O15: the pop of the return fails. -/
theorem returnOnEmptyStackIsNotMade : Obligations.ReturnOnEmptyStackIsNotMade := by
  intro s i hr hd hreturn hempty
  have he : errorOf i s.fetch = some .stackUnderflow := errorOf_eq_some_iff.mpr (.inr ⟨rfl, hempty, hreturn⟩)
  exact step_of_error_advances hr ((stepError_of_decode hr hd).trans he)

/-- Settles O17: before the first reset the error is NotReady; else each error is a refused word's or an instruction's, and
`errorOf_eq_some_iff` gives the instruction. -/
theorem stepErrorsAreExactlyTheListed : Obligations.StepErrorsAreExactlyTheListed := by
  intro s e
  cases hr : s.ready with
  | false => cases e <;> simp [stepError_of_not_ready hr]
  | true =>
    rw [stepError_eq_some_iff hr]
    cases e with
    | notReady => simp [errorOf_eq_some_iff]
    | decodeError w =>
      have hno (i : Instr) : errorOf i s.fetch ≠ some (.decodeError w) := by simp [errorOf_eq_some_iff]
      simp only [hno, and_false, exists_false, or_false, true_and, StepError.decodeError.injEq, ← decode_refused_iff]
      exact and_congr_right fun hw => by rw [hw]
    | stackOverflow => simp [errorOf_eq_some_iff, and_comm]
    | stackUnderflow => simp [errorOf_eq_some_iff, and_left_comm, and_or_left, exists_or]

end Sys2Proof.Machine
end

section
/-! Proofs of the statements of spec/70_reset_and_hazards.md: power-on (R180), reset (R181), load (R182), the step's answer
(R183) and the boot sequence (R184). -/

namespace Sys2Proof.Machine

/-! ### The step's answer (R183) -/

/-- Every step answers a next state: the errors of R161 and R165 are taken, and every instruction answers one. -/
theorem step_next (s : State) : ∃ t, step s = .next t := by
  cases hr : s.ready with
  | false => exact ⟨s, step_of_not_ready hr⟩
  | true =>
    cases hd : decode (s.progRead s.pc) with
    | ok i =>
      rw [step_of_decode hr hd]
      exact exec_next i s.fetch
    | error e =>
      obtain rfl := decode_error_names_the_word hd
      exact ⟨s.fetch, step_of_refused hr hd⟩

/-- Settles O18: the step answers a state, and its report is read off its error. -/
theorem everyStepAnswersAState : Obligations.EveryStepAnswersAState := by
  intro s
  obtain ⟨t, h⟩ := step_next s
  exact ⟨t, h, stepReport_of_no_error h, fun _ => stepReport_of_error⟩

/-! ### Power-on (R180) -/

/-- A byte of data memory at power-on, by the file address of its cell (R180, R19). -/
theorem powerOnByte_eq (gpr : FileAddr → Byte) (n : Nat) :
    powerOnByte gpr n = if n % 128 < 12 then 0#8 else gpr (BitVec.ofNat 7 (n % 128)) := by
  have hfile : BitVec.ofNat 7 (n % 128) = BitVec.ofNat 7 n := by
    rw [← BitVec.toNat_inj, BitVec.toNat_ofNat, BitVec.toNat_ofNat, Nat.mod_mod]
  simp only [powerOnByte, hfile, Nat.lt_succ_iff]

/-- A byte of the EEPROM at power-on (R180). -/
theorem powerOn_observeEeprom (cfg : Config) (gpr : FileAddr → Byte) (ee : Nat → Byte) {a : Nat}
    (ha : a < cfg.eepromSize) : (State.powerOn cfg gpr ee).observeEeprom a = .ok (ee a) := by
  simp only [State.observeEeprom, State.powerOn, read_fillCells, if_pos ha]

/-- Settles O28: the registers are as `State.powerOn` writes them, and the memories read as they were filled. -/
theorem powerOnState : Obligations.PowerOnState := fun cfg gpr ee =>
  ⟨rfl, rfl, rfl, rfl, rfl, fun _ => rfl, rfl, fun pa => (powerOn_read cfg gpr ee pa).trans (powerOnByte_eq gpr pa.toNat),
    fun _ => powerOn_observeEeprom cfg gpr ee, step_of_not_ready rfl⟩

/-! ### Reset (R181) -/

/-- A write reaches cells of its own file address only (R43). -/
theorem toNat_mod_of_hits {pa qa : PhysAddr} (h : hits pa qa = true) : qa.toNat % 128 = pa.toNat % 128 := by
  have hfile : fileOf qa = fileOf pa := by
    simp only [hits, Bool.or_eq_true, Bool.and_eq_true, beq_iff_eq] at h
    exact h.elim (congrArg fileOf) And.right
  rw [← fileOf_toNat, ← fileOf_toNat, hfile]

/-- A write to an SFR reaches no GPR (R16, R19). -/
theorem hits_sfr_of_gpr {pa qa : PhysAddr} (hpa : pa.toNat % 128 < 12) (hqa : ¬ qa.toNat % 128 < 12) :
    hits pa qa = false :=
  Bool.eq_false_iff.mpr fun h => hqa (toNat_mod_of_hits h ▸ hpa)

/-- The SFR values that the reset's writes leave are those of R16, cell by cell. -/
theorem resetWrites_eq_sfrAfterReset : ∀ pa : PhysAddr, pa.toNat % 128 < 12 →
    (if hits 0x86#8 pa then 0xFF#8 else if hits 0x85#8 pa then 0x1F#8 else if hits 0x81#8 pa then 0xFF#8
      else if hits 0x03#8 pa then 0x1C#8 else 0x00#8) = sfrAfterReset pa.toNat := by
  decide

/-- Data memory after the host's reset, in the spec's terms: the SFRs hold their reset values and the GPRs are kept. -/
theorem hostReset_memRead_eq (s : State) (pa : PhysAddr) :
    s.hostReset.memRead pa = if pa.toNat % 128 < 12 then sfrAfterReset pa.toNat else s.memRead pa := by
  rw [hostReset_memRead, read_resetRam]
  by_cases hsfr : pa.toNat % 128 < 12
  · rw [if_pos hsfr, if_pos hsfr]
    exact resetWrites_eq_sfrAfterReset pa hsfr
  · have hkept {qa : PhysAddr} (hqa : qa.toNat % 128 < 12) : hits qa pa = false := hits_sfr_of_gpr hqa hsfr
    simp [hkept, hsfr, State.memRead]

/-- Settles O29: the registers are as `State.hostReset` writes them. -/
theorem resetLeavesTheListedValues : Obligations.ResetLeavesTheListedValues := fun s =>
  ⟨hostReset_w s, hostReset_pc s, hostReset_ir s, hostReset_stack s, hostReset_ready s, hostReset_eeprom s,
    hostReset_prog s, hostReset_cfg s, hostReset_memRead_eq s⟩

/-! ### Load (R182) -/

/-- The check of an image, in the spec's terms (R182). -/
theorem imageOk_iff {size : Nat} {words : List Nat} :
    imageOk size words = true ↔ words.length ≤ size ∧ ∀ w ∈ words, w ≤ 0x3FFF := by
  simp [imageOk, wordOk]

/-- An image that fits is loaded (R182). -/
theorem load_of_imageOk {s : State} {words : List Nat} (h : imageOk s.cfg.progSize words = true) :
    s.load words = .ok (s.setProg (imageCells 0 words)) := by
  obtain ⟨hfits, hwords⟩ := Bool.and_eq_true_iff.mp h
  rw [State.load, if_neg (Nat.not_lt.mpr (of_decide_eq_true hfits)), if_pos hwords]
  rfl

/-- No other image is loaded (R182, log 16). -/
theorem load_of_not_imageOk {s : State} {words : List Nat} (h : ¬ imageOk s.cfg.progSize words = true) :
    ∃ e, s.load words = .error e := by
  cases hload : s.load words with
  | error e => exact ⟨e, rfl⟩
  | ok t =>
    obtain ⟨hfits, hwords, _⟩ := load_ok hload
    exact absurd (Bool.and_eq_true_iff.mpr ⟨decide_eq_true hfits, hwords⟩) h

/-- The cells of an image loaded from address 0: its words, and unset above them (R182, decision D20). -/
theorem cellFind_image (words : List Nat) (a : Nat) :
    cellFind (imageCells 0 words) a = (words[a]?).map (BitVec.ofNat 14) := by
  rw [cellFind_imageCells, if_pos (Nat.zero_le a), Nat.sub_zero]

/-- Settles O31: `load` by whether the image passes the check. -/
theorem loadFillsProgramMemoryOrFails : Obligations.LoadFillsProgramMemoryOrFails := by
  intro s words
  rw [← imageOk_iff]
  exact ⟨fun h => ⟨_, load_of_imageOk h, rfl, cellFind_image words⟩, load_of_not_imageOk⟩

/-! ### The boot sequence (R184) -/

/-- Reset does not touch program memory, so it may come before or after a load. -/
theorem hostReset_setProg (s : State) (p : ProgMemory) : (s.setProg p).hostReset = s.hostReset.setProg p := by
  simp only [State.setProg, State.hostReset]

/-- The first word of a loaded image is what is read at address 0 (R48, R182). -/
theorem progRead_image_zero {s : State} {w : Nat} {words : List Nat}
    (h : imageOk s.cfg.progSize (w :: words) = true) :
    (s.setProg (imageCells 0 (w :: words))).progRead 0#13 = BitVec.ofNat 14 w := by
  obtain ⟨hfits, _⟩ := imageOk_iff.mp h
  have hsize : 0 < s.cfg.progSize := Nat.zero_lt_of_lt hfits
  have hcell : cellFind (imageCells 0 (w :: words)) 0 = some (BitVec.ofNat 14 w) := cellFind_image _ 0
  simp [State.progRead, State.setProg, hsize, hcell]

/-- The first step of a ready machine at address 0 runs the word read there (R80, R184). -/
theorem step_from_zero {s : State} {w : InsnWord} {i : Instr} (hr : s.ready = true) (hpc : s.pc = 0#13)
    (hread : s.progRead 0#13 = w) (hd : decode w = .ok i) : step s = exec i { s with ir := w, pc := 1#13 } := by
  rw [← hpc] at hread
  have hfetch : s.fetch = { s with ir := w, pc := 1#13 } := by
    rw [State.fetch, hread, incPc_eq, setIr_pc, hpc]
    rfl
  rw [step_of_decode hr (hread ▸ hd), hfetch]

/-- Settles O32: either order gives the reset state with the image as program memory, which is ready with PC 0. -/
theorem bootRunsTheImageFromAddressZero : Obligations.BootRunsTheImageFromAddressZero := by
  intro s w words i himage hd
  have himage' : imageOk s.hostReset.cfg.progSize (w :: words) = true := by rwa [hostReset_cfg]
  refine ⟨s.hostReset.setProg (imageCells 0 (w :: words)), ?_, load_of_imageOk himage', ?_⟩
  · rw [load_of_imageOk himage, Except.map, hostReset_setProg]
  · exact step_from_zero (hostReset_ready s) (hostReset_pc s) (progRead_image_zero himage') hd

end Sys2Proof.Machine
end

section
/-! Proof of the statement of spec/10_state.md section 9: `State.reset`, which lists no cell, is what the host's operations
answer. A memory in canonical form is empty as soon as it reads everywhere as if unlisted, so the bytes decide. -/

namespace Sys2Proof.Machine

/-- In canonical form only the empty memory reads everywhere as if unlisted. -/
theorem Memory.eq_nil_of_read_eq_unlisted {u : Nat → Byte} {bound : Nat} : ∀ {m : Memory}, Memory.wf u bound m →
    (∀ a < bound, Memory.read u m a = u a) → m = []
  | [], _, _ => rfl
  | (a, v) :: rest, ⟨_, hcells⟩, hread => by
    obtain ⟨hbound, hlisted⟩ := hcells (a, v) List.mem_cons_self
    have hv : Memory.read u ((a, v) :: rest) a = v := by simp [Memory.read, cellFind]
    exact absurd (hv.symm.trans (hread a hbound)) hlisted

/-- A memory filled with what its unlisted addresses read as lists nothing. -/
theorem fillCells_unlisted (u : Nat → Byte) (n : Nat) : fillCells u u n [] = [] :=
  Memory.eq_nil_of_read_eq_unlisted (fillCells_wf (empty_wf u n) n (Nat.le_refl n))
    fun a ha => by rw [read_fillCells, if_pos ha]

/-- What an unlisted cell of data memory reads as: an SFR's reset value (R16, R35), else the choice of log 5. -/
theorem ramUnlisted_eq (pa : Nat) : ramUnlisted pa = if pa % 128 < 12 then sfrAfterReset pa else resetGpr := by
  by_cases hlisted : pa = 0x03 ∨ pa = 0x83 ∨ pa = 0x81 ∨ pa = 0x85 ∨ pa = 0x86
  · obtain rfl | rfl | rfl | rfl | rfl := hlisted <;> rfl
  · simp only [not_or] at hlisted
    simp [ramUnlisted, sfrAfterReset, hlisted, Nat.lt_succ_iff]

/-- Reset after power-on leaves every byte as an unlisted cell reads, when the GPRs power on as log 5 chooses. -/
theorem powerOn_hostReset_memRead (cfg : Config) (ee : Nat → Byte) (pa : PhysAddr) :
    (State.powerOn cfg (fun _ => resetGpr) ee).hostReset.memRead pa = ramUnlisted pa.toNat := by
  rw [hostReset_memRead_eq, powerOn_read, powerOnByte_eq, ramUnlisted_eq]
  by_cases hsfr : pa.toNat % 128 < 12
  · rw [if_pos hsfr, if_pos hsfr]
  · simp only [if_neg hsfr]

/-- Reset after power-on lists no cell of data memory, when the GPRs power on as log 5 chooses. -/
theorem powerOn_hostReset_ram (cfg : Config) (ee : Nat → Byte) :
    (State.powerOn cfg (fun _ => resetGpr) ee).hostReset.ram = [] := by
  obtain ⟨⟨hram, _⟩, _⟩ := hostReset_inv (powerOn_inv cfg (fun _ => resetGpr) ee)
  refine Memory.eq_nil_of_read_eq_unlisted hram fun a ha => ?_
  have hread := powerOn_hostReset_memRead cfg ee (BitVec.ofNat 8 a)
  rwa [State.memRead, BitVec.toNat_ofNat, Nat.mod_eq_of_lt ha] at hread

/-- Power-on fills the EEPROM as log 6 chooses, so it lists no cell. -/
theorem powerOn_eeprom (cfg : Config) (gpr : FileAddr → Byte) :
    (State.powerOn cfg gpr eepromUnlisted).eeprom = [] :=
  fillCells_unlisted eepromUnlisted cfg.eepromSize

/-- The reset of a state is `State.reset` when it lists no cell, for reset itself writes the registers of R35. -/
theorem hostReset_eq_of_memories {s : State} (hcfg : s.cfg = defaultConfig) (hram : s.hostReset.ram = [])
    (heeprom : s.eeprom = []) (hprog : s.prog = []) : s.hostReset = State.reset := by
  rw [hostReset_ram] at hram
  rw [State.hostReset, hcfg, hram, heeprom, hprog, State.reset]

/-- Settles O30: the registers are those of R35, and neither data memory nor the EEPROM lists a cell. -/
theorem resetStateIsPowerOnThenReset : Obligations.ResetStateIsPowerOnThenReset :=
  (hostReset_eq_of_memories rfl (powerOn_hostReset_ram defaultConfig eepromUnlisted)
    (powerOn_eeprom defaultConfig fun _ => resetGpr) rfl).symm

end Sys2Proof.Machine
end
